-- ==== Sys2Proof/Word.lean ====
section
/-!
DEFINITION. The words, bytes and line levels of the link block, and the 7-byte frame buffer (00_scope.md R8, R9;
10_state.md R37).
-/

namespace Sys2Proof

/-- A byte of a frame, or an 8-bit servo register address (00_scope.md R7). -/
abbrev Byte := BitVec 8

/-- A 16-bit servo register value (00_scope.md R7; 20_memory.md R53). -/
abbrev Half := BitVec 16

/-- A 32-bit word of the host bus (20_memory.md R50). -/
abbrev Word := BitVec 32

/-- A logic level on the wire: `L` is low, `H` is high (00_scope.md R9). -/
inductive Level
  | L
  | H
  deriving DecidableEq, Repr, Inhabited

/-- A buffer of 7 bytes, as `txbuf[0..6]` and `rxbuf[0..6]` are (10_state.md R37). -/
structure FrameBuf where
  b0 : Byte
  b1 : Byte
  b2 : Byte
  b3 : Byte
  b4 : Byte
  b5 : Byte
  b6 : Byte
  deriving DecidableEq, Repr, Inhabited

/-- Seven zero bytes. -/
def FrameBuf.zero : FrameBuf := ⟨0, 0, 0, 0, 0, 0, 0⟩

end Sys2Proof
end

