-- ==== Sys2Proof/Syntax.lean ====
section
/-!
DEFINITION. The instructions: one constructor for each row of spec/opcode_table.json, and the five kinds a command word
decodes to (10_state.md R37).
-/

namespace Sys2Proof

/-- The decoded kind of a command, the enumeration of 5 that the hidden register `op` holds (10_state.md R37,
90_conflicts.md C9). -/
inductive Op
  | illegal
  | attach
  | detach
  | writeReg
  | readReg
  deriving DecidableEq, Repr, Inhabited

/-- One constructor for each row of the opcode table. The command rows carry the ADDR and VALUE fields of their word even
where the command ignores them (30_encoding.md R73, R74), because acceptance latches both fields of every word into the
hidden state (42_sequencer.md R125). The wire rows carry the bytes of the frame that its encoding does not fix. -/
inductive Instr
  /-- `ATTACH` (42_sequencer.md R131). -/
  | attach (addr : Byte) (value : Half)
  /-- `DETACH` (42_sequencer.md R132). -/
  | detach (addr : Byte) (value : Half)
  /-- `WRITE_REG addr, value` (42_sequencer.md R133). -/
  | writeReg (addr : Byte) (value : Half)
  /-- `READ_REG addr`; `value` is the ignored VALUE field (42_sequencer.md R134). -/
  | readReg (addr : Byte) (value : Half)
  /-- `READ_MODEL`, the word 0x00000004, which is `READ_REG 0x00` (30_encoding.md R84). -/
  | readModel
  /-- An illegal command word (42_sequencer.md R135). -/
  | illegal (word : Word)
  /-- The write-register request frame on the wire (30_encoding.md R77). -/
  | wireWriteRequest (addr lo hi cks : Byte)
  /-- The read-register request frame on the wire (30_encoding.md R78). -/
  | wireReadRequest (addr cks : Byte)
  /-- The read-register response frame on the wire (30_encoding.md R79). -/
  | wireReadResponse (mystery addrEcho lo hi cks2 : Byte)
  deriving DecidableEq, Repr

end Sys2Proof
end

