-- ==== Sys2Proof/Machine/Operands.lean ====
section
/-!
DEFINITION. Operand forms: the fields of a command word, the split and join of a 16-bit value, the checksum, the indexing
of a frame buffer and the building of the request and response frames (30_encoding.md R70 to R80; 41_framer.md R110 to
R116).
-/

namespace Sys2Proof

/-- `OP`, bits 3:0 of a command word (30_encoding.md R70). -/
def opField (w : Word) : BitVec 4 := w.extractLsb' 0 4

/-- `RSV`, bits 7:4 of a command word (30_encoding.md R70). -/
def rsvField (w : Word) : BitVec 4 := w.extractLsb' 4 4

/-- `ADDR`, bits 15:8 of a command word (30_encoding.md R73). -/
def addrField (w : Word) : Byte := w.extractLsb' 8 8

/-- `VALUE`, bits 31:16 of a command word (30_encoding.md R74). -/
def valueField (w : Word) : Half := w.extractLsb' 16 16

/-- The command word with the given fields and `RSV = 0` (30_encoding.md R70, R83). -/
def commandWord (op : BitVec 4) (addr : Byte) (value : Half) : Word :=
  value ++ addr ++ (0#4) ++ op

/-- The opcode of a decoded kind (30_encoding.md R71); an illegal command stands under the reserved opcode 0. -/
def Op.code : Op → BitVec 4
  | .illegal => 0x0#4
  | .attach => 0x1#4
  | .detach => 0x2#4
  | .writeReg => 0x3#4
  | .readReg => 0x4#4

/-- `value[7:0]` (30_encoding.md R80). -/
def lowByte (v : Half) : Byte := v.extractLsb' 0 8

/-- `value[15:8]` (30_encoding.md R80). -/
def highByte (v : Half) : Byte := v.extractLsb' 8 8

/-- `{hi, lo}`, which is `lo | (hi << 8)` (30_encoding.md R80; 41_framer.md R120). -/
def joinBytes (lo hi : Byte) : Half := hi ++ lo

/-- `Cks`: the sum over the natural numbers, reduced modulo 256 (41_framer.md R110). -/
def cks (bs : List Byte) : Byte := BitVec.ofNat 8 ((bs.map BitVec.toNat).sum)

/-- Byte `k` of a frame buffer; a buffer has no byte beyond 6, and such an index reads 0. -/
def FrameBuf.get (f : FrameBuf) : Nat → Byte
  | 0 => f.b0
  | 1 => f.b1
  | 2 => f.b2
  | 3 => f.b3
  | 4 => f.b4
  | 5 => f.b5
  | 6 => f.b6
  | _ => 0

/-- The buffer with byte `k` replaced; an index beyond 6 changes nothing. -/
def FrameBuf.set (f : FrameBuf) (k : Nat) (b : Byte) : FrameBuf :=
  match k with
  | 0 => { f with b0 := b }
  | 1 => { f with b1 := b }
  | 2 => { f with b2 := b }
  | 3 => { f with b3 := b }
  | 4 => { f with b4 := b }
  | 5 => { f with b5 := b }
  | 6 => { f with b6 := b }
  | _ => f

/-- The seven bytes in order. -/
def FrameBuf.bytes (f : FrameBuf) : List Byte := [f.b0, f.b1, f.b2, f.b3, f.b4, f.b5, f.b6]

/-- The leader of a request (00_scope.md R11). -/
def requestLeader : Byte := 0x96#8

/-- The leader of a response, `echoConst` (00_scope.md R11). -/
def responseLeader : Byte := 0x69#8

/-- The write-register request with its checksum byte given (30_encoding.md R77). -/
def writeRequestBuf (addr lo hi c : Byte) : FrameBuf := ⟨requestLeader, 0x00#8, addr, 0x02#8, lo, hi, c⟩

/-- The checksum of a write request (30_encoding.md R77; 41_framer.md R112). -/
def writeRequestCks (addr lo hi : Byte) : Byte := cks [0x00#8, addr, 0x02#8, lo, hi]

/-- `BuildWriteFrame`'s seven bytes (41_framer.md R112). -/
def writeFrame (addr : Byte) (value : Half) : FrameBuf :=
  writeRequestBuf addr (lowByte value) (highByte value) (writeRequestCks addr (lowByte value) (highByte value))

/-- The checksum of a read request (30_encoding.md R78; 41_framer.md R113). -/
def readRequestCks (addr : Byte) : Byte := cks [0x00#8, addr, 0x00#8]

/-- The buffer after a read request is put into its first five bytes; bytes 5 and 6 keep their values
(41_framer.md R113). -/
def readRequestBuf (addr c : Byte) (old : FrameBuf) : FrameBuf :=
  { old with b0 := requestLeader, b1 := 0x00#8, b2 := addr, b3 := 0x00#8, b4 := c }

/-- `BuildReadFrame`'s buffer (41_framer.md R113). -/
def readFrame (addr : Byte) (old : FrameBuf) : FrameBuf := readRequestBuf addr (readRequestCks addr) old

/-- The expected checksum of a response; it covers the mystery byte (41_framer.md R116). -/
def responseCks (mystery addrEcho lengthEcho lo hi : Byte) : Byte := cks [mystery, addrEcho, lengthEcho, lo, hi]

/-- A response's seven bytes with its checksum byte given (30_encoding.md R79). -/
def responseBuf (mystery addrEcho lo hi c : Byte) : FrameBuf := ⟨responseLeader, mystery, addrEcho, 0x02#8, lo, hi, c⟩

/-- The response a faithful servo sends for register `a` holding `v` (20_memory.md R57). -/
def responseFrame (mystery a : Byte) (v : Half) : FrameBuf :=
  responseBuf mystery a (lowByte v) (highByte v) (responseCks mystery a 0x02#8 (lowByte v) (highByte v))

/-- A byte with bit `j` replaced: the effect of `shift[j] <- b` (40_transceiver.md R98). -/
def setBit (v : Byte) (j : Nat) (b : Bool) : Byte :=
  if b then v ||| ((1#8) <<< j) else v &&& ~~~((1#8) <<< j)

end Sys2Proof
end

