-- ==== Sys2Proof/WellFormed.lean ====
section
/-!
DEFINITION. Well-formed instructions: the constraints an encoding puts on a constructor's operands.
-/

namespace Sys2Proof

/-- A command word is illegal: `RSV` is not 0, or `OP` is 0 or 5 to 15 (30_encoding.md R72). -/
def illegalWord (w : Word) : Bool :=
  rsvField w != 0#4 ||
    (opField w != 0x1#4 && opField w != 0x2#4 && opField w != 0x3#4 && opField w != 0x4#4)

/-- An instruction is one that its row of the opcode table encodes.

`READ_REG` with both fields 0 is the word of the row `READ_MODEL`, which names it (log entry 9). A frame carries the
checksum byte its row gives. -/
def Instr.wellFormed : Instr → Bool
  | .attach _ _ => true
  | .detach _ _ => true
  | .writeReg _ _ => true
  | .readReg addr value => addr != 0#8 || value != 0#16
  | .readModel => true
  | .illegal word => illegalWord word
  | .wireWriteRequest addr lo hi c => c == writeRequestCks addr lo hi
  | .wireReadRequest addr c => c == readRequestCks addr
  | .wireReadResponse mystery addrEcho lo hi c2 => c2 == responseCks mystery addrEcho 0x02#8 lo hi

end Sys2Proof
end

