-- ==== Sys2Proof/Decode.lean ====
section
/-!
DEFINITION. Decoding: command words (30_encoding.md R75) and wire frames (30_encoding.md R77 to R82), total, rejecting by
name; and the encoder written from the same tables.
-/

namespace Sys2Proof

/-- What an instruction is encoded as: one command word, or the bytes of a wire frame in the order sent. -/
inductive Code
  | word (w : Word)
  | frame (bytes : List Byte)
  deriving DecidableEq, Repr

/-- Why bytes are no frame of 30_encoding.md R77 to R79. -/
inductive Reject
  /-- The frame is neither 5 nor 7 bytes long (30_encoding.md R81). -/
  | byteCount
  /-- Byte 0 is not the leader of the frame's kind. -/
  | leader
  /-- Byte 1 of a request is not the constant 0x00. -/
  | constant
  /-- Byte 3 is not the length of a frame of this many bytes. -/
  | length
  /-- The last byte is not the checksum. -/
  | checksum
  deriving DecidableEq, Repr

/-- Decoding a command word, total over all 2^32 words (30_encoding.md R75). The one word 0x00000004 is given the name of its own row,
`READ_MODEL`; R75 calls it `ReadReg(0x00)`, and the two have one effect (30_encoding.md R84; log entry 9). -/
def decodeWord (w : Word) : Instr :=
  if rsvField w != 0#4 then .illegal w
  else if opField w == 0x1#4 then .attach (addrField w) (valueField w)
  else if opField w == 0x2#4 then .detach (addrField w) (valueField w)
  else if opField w == 0x3#4 then .writeReg (addrField w) (valueField w)
  else if opField w == 0x4#4 then
    if addrField w == 0#8 && valueField w == 0#16 then .readModel
    else .readReg (addrField w) (valueField w)
  else .illegal w

/-- Decoding a request frame, as seen from the servo (30_encoding.md R77, R78, R81). -/
def decodeRequest : List Byte → Except Reject Instr
  | [b0, b1, a, b3, c] =>
    if b0 != requestLeader then .error .leader
    else if b1 != 0x00#8 then .error .constant
    else if b3 != 0x00#8 then .error .length
    else if c != readRequestCks a then .error .checksum
    else .ok (.wireReadRequest a c)
  | [b0, b1, a, b3, lo, hi, c] =>
    if b0 != requestLeader then .error .leader
    else if b1 != 0x00#8 then .error .constant
    else if b3 != 0x02#8 then .error .length
    else if c != writeRequestCks a lo hi then .error .checksum
    else .ok (.wireWriteRequest a lo hi c)
  | _ => .error .byteCount

/-- Decoding a response frame (30_encoding.md R79, R82). -/
def decodeResponse : List Byte → Except Reject Instr
  | [b0, m, a, b3, lo, hi, c] =>
    if b0 != responseLeader then .error .leader
    else if b3 != 0x02#8 then .error .length
    else if c != responseCks m a 0x02#8 lo hi then .error .checksum
    else .ok (.wireReadResponse m a lo hi c)
  | _ => .error .byteCount

/-- Decoding any frame: the leader tells a response from a request (00_scope.md R11). -/
def decodeFrame (bytes : List Byte) : Except Reject Instr :=
  if bytes.head? == some responseLeader then decodeResponse bytes else decodeRequest bytes

/-- Decoding either encoding. -/
def decode : Code → Except Reject Instr
  | .word w => .ok (decodeWord w)
  | .frame bytes => decodeFrame bytes

/-- The encoding of an instruction (30_encoding.md R71, R77 to R79, R83). -/
def encode : Instr → Code
  | .attach addr value => .word (commandWord 0x1#4 addr value)
  | .detach addr value => .word (commandWord 0x2#4 addr value)
  | .writeReg addr value => .word (commandWord 0x3#4 addr value)
  | .readReg addr value => .word (commandWord 0x4#4 addr value)
  | .readModel => .word 0x00000004#32
  | .illegal word => .word word
  | .wireWriteRequest addr lo hi c => .frame [0x96#8, 0x00#8, addr, 0x02#8, lo, hi, c]
  | .wireReadRequest addr c => .frame [0x96#8, 0x00#8, addr, 0x00#8, c]
  | .wireReadResponse mystery addrEcho lo hi c2 => .frame [0x69#8, mystery, addrEcho, 0x02#8, lo, hi, c2]

/-- The kind a command word decodes to (30_encoding.md R75; `kind(d)` of 42_sequencer.md R125). -/
def wordKind (w : Word) : Op :=
  if rsvField w != 0#4 then .illegal
  else if opField w == 0x1#4 then .attach
  else if opField w == 0x2#4 then .detach
  else if opField w == 0x3#4 then .writeReg
  else if opField w == 0x4#4 then .readReg
  else .illegal

/-- The `n` lowest bytes of a number, byte 0 first. -/
def bytesOfNat : Nat → Nat → List Byte
  | 0, _ => []
  | n + 1, w => BitVec.ofNat 8 w :: bytesOfNat n (w / 256)

/-- The encoding that the opcode table's bit numbering gives `nbits` bits `w`: up to 32 bits are a command word, up to
40 the 5 bytes of a read request, up to 56 the 7 bytes of a write request or a response. A frame's byte 0 is the least
significant. -/
def codeOfTableWord (nbits w : Nat) : Option Code :=
  if nbits ≤ 32 then some (.word (BitVec.ofNat 32 (w % 2 ^ nbits)))
  else if nbits ≤ 40 then some (.frame (bytesOfNat 5 (w % 2 ^ nbits)))
  else if nbits ≤ 56 then some (.frame (bytesOfNat 7 (w % 2 ^ nbits)))
  else none

/-- The instruction the decoder reads from the bits `w` of an instruction. -/
def decodeTableWord (nbits w : Nat) : Option Instr :=
  match codeOfTableWord nbits w with
  | some c =>
    match decode c with
    | .ok i => some i
    | .error _ => none
  | none => none

end Sys2Proof
end

