-- ==== Sys2Proof/Config.lean ====
section
/-!
DEFINITION. What an implementation of the block fixes (the parameters of 00_scope.md R7) and the values the spec leaves
free: uninterpreted constants with no body.
-/

namespace Sys2Proof

/-- The parameters of 00_scope.md R7 that are arguments of the model. The cycle counts are independent of one another;
R7's formulas are only their defaults for a given clock. -/
structure Params where
  /-- `CLK_HZ`, left OPEN (92_eei_decisions.md D2). -/
  clkHz : Nat
  /-- `BASE`, the host address of the register window, left OPEN (92_eei_decisions.md D5). The block never reads it. -/
  base : Nat
  /-- `BIT_CYCLES`. -/
  bitCycles : Nat
  /-- `SYNC_STAGES`. -/
  syncStages : Nat
  /-- `START_TIMEOUT_CYCLES`. -/
  startTimeoutCycles : Nat
  /-- `SETTLE_CYCLES`. -/
  settleCycles : Nat
  /-- `PRESENCE_DELAY_CYCLES`. -/
  presenceDelayCycles : Nat
  /-- `PULLUP_WINDOW_CYCLES`. -/
  pullupWindowCycles : Nat
  /-- `DATA_INVERTED`. -/
  dataInverted : Bool
  deriving DecidableEq, Repr, Inhabited

/-- `BAUD` (00_scope.md R3, R7). -/
def Config.baud : Nat := 115200

/-- `TX_FRAME_WRITE`, the bytes of a write request (00_scope.md R7). -/
def Config.txFrameWrite : Nat := 7

/-- `TX_FRAME_READ`, the bytes of a read request (00_scope.md R7). -/
def Config.txFrameRead : Nat := 5

/-- `RX_FRAME_READ`, the bytes of a read response (00_scope.md R7). -/
def Config.rxFrameRead : Nat := 7

/-- The hidden registers whose value after a reset cycle the spec leaves unspecified (10_state.md R41). -/
structure ResetDraw where
  op : Op
  addr : Byte
  value : Half
  txbuf : FrameBuf
  txlen : BitVec 3
  rxidx : BitVec 3
  shift : Byte
  rxbuf : FrameBuf
  ferr : Bool
  deriving DecidableEq, Repr, Inhabited

/-- FREE VALUE (log entry 3): the level Env(c) of a cycle for which no input is listed; "any value"
(10_state.md R36, 93_implementation_defined.md S3). -/
opaque Config.freeEnv : Nat → Level

/-- FREE VALUE (log entry 5): what a reset cycle leaves in the registers that 10_state.md R41 calls unspecified; "any value, and a
model takes it as a draw". -/
opaque Config.resetDraw : Nat → ResetDraw

end Sys2Proof
end

