-- ==== Sys2Proof/Machine/Timing.lean ====
section
/-!
DEFINITION. The derived counts of the parameters, their defaults for a given clock and their constraints (00_scope.md R7;
70_reset_and_hazards.md R182).
-/

namespace Sys2Proof

/-- `HALF_CYCLES`, always `floor(BIT_CYCLES/2)` (00_scope.md R7). -/
def Params.halfCycles (p : Params) : Nat := p.bitCycles / 2

/-- `round(a/b)`, half up, on naturals (00_scope.md R8). -/
def roundDiv (a b : Nat) : Nat := (2 * a + b) / (2 * b)

/-- The defaults of 00_scope.md R7 for a clock of `clkHz` hertz. -/
def Params.ofClock (clkHz base : Nat) : Params where
  clkHz := clkHz
  base := base
  bitCycles := roundDiv clkHz Config.baud
  syncStages := 2
  startTimeoutCycles := roundDiv (4 * clkHz) 1000
  settleCycles := roundDiv (14 * clkHz) 1000
  presenceDelayCycles := roundDiv clkHz Config.baud / 2
  pullupWindowCycles := 4 * roundDiv clkHz Config.baud
  dataInverted := true

/-- The six constraints that 00_scope.md R7 and 93_implementation_defined.md S7 list. `CLK_HZ` is not checked: where `BIT_CYCLES` is given
independently, that `CLK_HZ` gives no count of 32 or more is let pass, by the model's choice (log entry 27). -/
def Params.valid (p : Params) : Bool :=
  decide (32 ≤ p.bitCycles) && decide (p.syncStages = 2) && decide (p.syncStages ≤ p.presenceDelayCycles) &&
    decide (1 ≤ p.settleCycles) && decide (3 ≤ p.startTimeoutCycles) && decide (1 ≤ p.pullupWindowCycles)

/-- How many cycles `TX` takes for a frame of `txlen` bytes: the lead-in and 10 bit periods a byte
(40_transceiver.md R91, R93). -/
def Params.txCycles (p : Params) (txlen : Nat) : Nat := p.bitCycles * (1 + 10 * txlen)

/-- The data or stop sample point `k` of a received byte, counted from its start edge: the first lies 1.5 bit periods after
the edge, the others one bit period apart (40_transceiver.md R98). -/
def Params.samplePoint (p : Params) (k : Nat) : Nat := p.bitCycles + p.halfCycles + k * p.bitCycles

/-- The most cycles one received byte takes: its window and its sampling (10_state.md R22). -/
def Params.byteCycles (p : Params) : Nat := p.startTimeoutCycles + 9 * p.bitCycles + p.halfCycles

/-- The maximum number of busy cycles of a command (10_state.md R22; 70_reset_and_hazards.md R182). -/
def Params.maxBusyCycles (p : Params) : Nat :=
  51 * p.bitCycles + p.presenceDelayCycles + 1 + p.settleCycles + 7 * p.byteCycles + p.pullupWindowCycles

/-- The host address of the register at a byte offset of the window (20_memory.md R61). -/
def Params.hostAddress (p : Params) (offset : Nat) : Nat := p.base + offset

end Sys2Proof
end

