-- ==== Sys2Proof/Machine/State.lean ====
section
/-!
DEFINITION. The state of the machine as plain data: the block's registers and hidden state (10_state.md R37), its
parameters (00_scope.md R7), the environment at the far end of the wire (20_memory.md R53 to R59) and the inputs of the coming
cycles (42_sequencer.md R128); the reasons a step can stop; the state right after reset (10_state.md R41).
-/

namespace Sys2Proof.Machine

/-- The sequencer's phase, the analogue of a program counter (10_state.md R21). -/
inductive Phase
  | idle
  | exec
  | tx
  | presence
  | settle
  | rxWait
  | rxBits
  | pullup
  deriving DecidableEq, Repr, Inhabited

/-- The inputs of one clock cycle (42_sequencer.md R128; 10_state.md R24, R36, R42). `env` is `Env(c)`, the wire's level when
the block does not drive. -/
structure CycleInput where
  rst : Bool
  busEn : Bool
  busWe : Bool
  busWord : BitVec 2
  busWdata : Word
  env : Level
  deriving DecidableEq, Repr, Inhabited

/-- What stands at the far end of the wire (20_memory.md R55 to R59). -/
inductive FarEnd
  /-- Env(c) is an unconstrained input (10_state.md R36). -/
  | input
  /-- No servo; the pull-up holds a released line at H (20_memory.md R58). -/
  | absent
  /-- The faithful servo with latency `d`, pull-up delay `r` and mystery byte `m` (20_memory.md R56, R57). -/
  | faithful (d r : Nat) (m : Byte)
  /-- The servo without pull-up (20_memory.md R59). -/
  | noPullup (d : Nat) (m : Byte)
  deriving DecidableEq, Repr

/-- A servo's reply: the cycles since `c_rel`, and the seven bytes it sends (20_memory.md R57). -/
structure Reply where
  since : Nat
  bytes : FrameBuf
  deriving DecidableEq, Repr

/-- Cells of memory at rising addresses, none holding what an unlisted address reads as. -/
abbrev Memory := List Host.Cell

/-- The far end of the wire as an agent: which one it is, its registers `ServoReg` (20_memory.md R53) and its reply in
progress. -/
structure Servo where
  far : FarEnd
  /-- `ServoReg[a]` as two byte cells: the low byte at `2*a`, the high byte at `2*a + 1` (log entry 12). -/
  regs : Memory
  reply : Option Reply
  deriving DecidableEq, Repr

/-- The machine. The block's fields are those of 10_state.md R37; `cfg`, `servo`, `inputs` and `cycle` are the parameters, the
far end, the listed inputs and the model's own cycle count. -/
structure State where
  /-- The parameters (00_scope.md R7); nothing changes them. -/
  cfg : Params
  /-- `STATUS.ATTACHED` (10_state.md R33). -/
  attached : Bool
  /-- `STATUS.BUSY` (10_state.md R30). -/
  busy : Bool
  /-- `STATUS.DONE` (10_state.md R31). -/
  done : Bool
  /-- `STATUS.ERR` (10_state.md R32). -/
  err : BitVec 3
  /-- `STATUS.OVR` (10_state.md R34). -/
  ovr : Bool
  /-- `RDATA[15:0]` (10_state.md R28). -/
  rdata : Half
  phase : Phase
  /-- The kind of the running command (42_sequencer.md R125). -/
  op : Op
  addr : Byte
  value : Half
  txbuf : FrameBuf
  txlen : BitVec 3
  /-- The phase counter; a natural number, as 92_eei_decisions.md D41 allows (log entry 19). -/
  t : Nat
  rxidx : BitVec 3
  shift : Byte
  rxbuf : FrameBuf
  /-- A received stop bit read H (40_transceiver.md R98). -/
  ferr : Bool
  sync1 : Level
  /-- The synchronised sample `s(c)` (40_transceiver.md R92). -/
  sync2 : Level
  /-- `s(c-1)` (40_transceiver.md R92). -/
  sprev : Level
  servo : Servo
  /-- The inputs of this cycle and the next ones, this cycle's first; past them see `currentInput` (log entry 2). -/
  inputs : List CycleInput
  /-- The MODEL's own count of cycles, the index of the free values (log entry 3). -/
  cycle : Nat
  deriving DecidableEq, Repr

/-- Why the machine stops with a fault. -/
inductive Fault
  /-- Raised by `step`, in a cycle with `rst = 0`, in a state whose `ERR` is 6 or 7. The spec calls such a code never produced and has
  it treated as a fault (93_implementation_defined.md S6; log entry 8). Safe: no run from reset has one. -/
  | errCodeNeverProduced
  deriving DecidableEq, Repr

/-- Why a step is refused. -/
inductive Refusal
  /-- An instruction with no meaning yet, raised by `exec`'s refused arms, of which none is left. Safe. -/
  | notModelled (mnemonic : String)
  /-- Raised by `step` where a parameter is outside its constraint (00_scope.md R7): such a configuration is refused
  (93_implementation_defined.md S7). Safe. -/
  | parametersOutOfRange
  deriving DecidableEq, Repr

/-- The state after reset of a block with the given parameters (10_state.md R41). A field R41 calls unspecified is zero here, by
choice (log entry 4). -/
def State.resetWith (cfg : Params) : State where
  cfg := cfg
  attached := false
  busy := false
  done := false
  err := 0#3
  ovr := false
  rdata := 0#16
  phase := .idle
  op := .illegal
  addr := 0#8
  value := 0#16
  txbuf := FrameBuf.zero
  txlen := 0#3
  t := 0
  rxidx := 0#3
  shift := 0#8
  rxbuf := FrameBuf.zero
  ferr := false
  sync1 := .L
  sync2 := .L
  sprev := .L
  servo := { far := .input, regs := [], reply := none }
  inputs := []
  cycle := 0

/-- The machine right after reset, at the defaults for a 16 MHz clock: `CLK_HZ` is left open, so this one value is the model's
choice (log entry 6). -/
def State.reset : State := State.resetWith (Params.ofClock 16000000 0)

end Sys2Proof.Machine
end

