-- ==== Sys2Proof/Machine/Flags.lean ====
section
/-!
DEFINITION. The status flags: the result codes (60_exceptions.md R150), the words the host reads (10_state.md R26 to R29;
42_sequencer.md R128) and the write-1-to-clear bits (10_state.md R27, R35).
-/

namespace Sys2Proof.Machine

/-- The results a command can complete with (60_exceptions.md R150). -/
inductive ResultCode
  | ok
  | noServoDetected
  | noPullupResistor
  | corruptResponse
  | notAttached
  | illegalCommand
  deriving DecidableEq, Repr

/-- The numbering of 60_exceptions.md R150. -/
def ResultCode.code : ResultCode → BitVec 3
  | .ok => 0#3
  | .noServoDetected => 1#3
  | .noPullupResistor => 2#3
  | .corruptResponse => 3#3
  | .notAttached => 4#3
  | .illegalCommand => 5#3

/-- One bit of a status word. -/
def bit (b : Bool) : BitVec 1 := BitVec.ofBool b

/-- `STATUS` as read: `zext_32({OVR, ATTACHED, ERR[2:0], DONE, BUSY})` (42_sequencer.md R128; 10_state.md R27). -/
def statusWord (s : State) : Word :=
  (bit s.ovr ++ bit s.attached ++ s.err ++ bit s.done ++ bit s.busy).setWidth 32

/-- `RDATA` as read: `zext_32(rdata)` (10_state.md R28). -/
def rdataWord (s : State) : Word := s.rdata.setWidth 32

/-- `Read(S, bus_word)` (42_sequencer.md R128). -/
def readWord (s : State) (word : BitVec 2) : Word :=
  if word = 1#2 then statusWord s
  else if word = 2#2 then rdataWord s
  else 0#32

/-- The write-data bit that clears `DONE` (10_state.md R27). -/
def clearsDone (wdata : Word) : Bool := wdata.getLsbD 1

/-- The write-data bit that clears `OVR` (10_state.md R27). -/
def clearsOvr (wdata : Word) : Bool := wdata.getLsbD 6

/-- A write to `STATUS`: it clears `DONE` and `OVR` where their bit is 1, and changes nothing else. A completion in the same cycle
leaves `DONE` set (10_state.md R27, R31, R35). -/
def writeStatus (completed : Bool) (wdata : Word) (n : State) : State :=
  { n with
    done := n.done && !(clearsDone wdata && !completed)
    ovr := n.ovr && !clearsOvr wdata }

end Sys2Proof.Machine
end

