-- ==== Sys2Proof/Machine/Ops.lean ====
section
/-!
DEFINITION. The named operations: the servo's register memory (20_memory.md R53), the inputs of a cycle (10_state.md R24, R36),
completing a command (42_sequencer.md R139, the block's whole counterpart of taking an exception, 60_exceptions.md R154), validating a response
(41_framer.md R119) and accepting a command (42_sequencer.md R125).
-/

namespace Sys2Proof.Machine

/-- What an unlisted byte of a servo register reads as: the test servo's registers hold 0 unless stated otherwise
(95_test_vectors.md, Conventions; log entry 12). -/
def Memory.unlisted : Byte := 0#8

/-- Byte `k` of the servo's registers. -/
def Memory.read : Memory → Nat → Byte
  | [], _ => Memory.unlisted
  | (a, b) :: rest, k => if a = k then b else Memory.read rest k

/-- Adds a listed byte: nothing is listed that an unlisted address reads as. -/
def Memory.cons (k : Nat) (b : Byte) (m : Memory) : Memory :=
  if b = Memory.unlisted then m else (k, b) :: m

/-- Writes byte `k`, keeping the addresses rising. -/
def Memory.write : Memory → Nat → Byte → Memory
  | [], k, b => Memory.cons k b []
  | (a, c) :: rest, k, b =>
    if k < a then Memory.cons k b ((a, c) :: rest)
    else if k = a then Memory.cons k b rest
    else (a, c) :: Memory.write rest k b

/-- The canonical form: addresses rise from `lo` on, and no entry holds what an unlisted address reads as. -/
def Memory.wfFrom : Nat → Memory → Bool
  | _, [] => true
  | lo, (a, b) :: rest => decide (lo ≤ a) && b != Memory.unlisted && Memory.wfFrom (a + 1) rest

/-- The memory is in canonical form, and lists only bytes of the 256 registers (20_memory.md R53). -/
def Memory.wf (m : Memory) : Bool := Memory.wfFrom 0 m && m.all (fun c => decide (c.1 < 512))

/-- `ServoReg[a]`, low byte first (20_memory.md R53, R54). -/
def servoRead (m : Memory) (a : Byte) : Half :=
  joinBytes (m.read (2 * a.toNat)) (m.read (2 * a.toNat + 1))

/-- `ServoReg[a] <- v` (20_memory.md R56). -/
def servoWrite (m : Memory) (a : Byte) (v : Half) : Memory :=
  (m.write (2 * a.toNat) (lowByte v)).write (2 * a.toNat + 1) (highByte v)

/-- A cycle in which the host makes no access and the line's level is `env`. -/
def idleInput (env : Level) : CycleInput := ⟨false, false, false, 0#2, 0#32, env⟩

/-- A bus write of `wdata` to a word of the window (20_memory.md R50). -/
def writeInput (word : BitVec 2) (wdata : Word) (env : Level) : CycleInput := ⟨false, true, true, word, wdata, env⟩

/-- A bus read of a word of the window (20_memory.md R50). -/
def readInput (word : BitVec 2) (env : Level) : CycleInput := ⟨false, true, false, word, 0#32, env⟩

/-- A cycle with `rst = 1` (10_state.md R42). -/
def resetInput (env : Level) : CycleInput := ⟨true, false, false, 0#2, 0#32, env⟩

/-- The inputs of this cycle: the first listed ones; where none is listed the host is idle and the line's level is a free
value (log entries 2 and 3). -/
def currentInput (s : State) : CycleInput := s.inputs.headD (idleInput (Config.freeEnv s.cycle))

/-- The cycle's access is a bus write (10_state.md R24). -/
def CycleInput.writes (x : CycleInput) : Bool := x.busEn && x.busWe

/-- The cycle's access is a write to `CMD` (10_state.md R26). -/
def CycleInput.writesCmd (x : CycleInput) : Bool := x.writes && x.busWord == 0#2

/-- The read data of this cycle: 0 where the host does not read (42_sequencer.md R128; 10_state.md R24). -/
def busRdata (s : State) : Word :=
  if (currentInput s).busEn && !(currentInput s).busWe then readWord s (currentInput s).busWord else 0#32

/-- What the phase step of a cycle gives: the next state so far, and whether the command completed in this cycle
(42_sequencer.md R128). -/
structure Progress where
  next : State
  completed : Bool
  deriving DecidableEq, Repr

/-- A phase step that completes nothing. -/
def goOn (n : State) : Progress := ⟨n, false⟩

/-- The value of a received response, `{rxbuf[5], rxbuf[4]}` (41_framer.md R120). -/
def responseValue (f : FrameBuf) : Half := joinBytes f.b4 f.b5

/-- `Complete(code)`: the running command ends with its result code, and a successful read writes `RDATA` (42_sequencer.md R139;
60_exceptions.md R154). -/
def complete (code : ResultCode) (s : State) : Progress :=
  { next :=
      { s with
        busy := false
        done := true
        err := code.code
        phase := .idle
        t := 0
        rdata := if s.op = .readReg ∧ code = .ok then responseValue s.rxbuf else s.rdata }
    completed := true }

/-- `Validate()` on a response, the requested address and the framing flag (41_framer.md R119). -/
def validateFrame (f : FrameBuf) (addr : Byte) (ferr : Bool) : ResultCode :=
  if f.b0 = responseLeader ∧ f.b2 = addr ∧ f.b3 = 0x02#8 ∧ f.b6 = responseCks f.b1 f.b2 f.b3 f.b4 f.b5 ∧ ferr = false
  then .ok else .corruptResponse

/-- `Validate()` in a state (41_framer.md R119). -/
def validate (s : State) : ResultCode := validateFrame s.rxbuf s.addr s.ferr

/-- What every acceptance does: `BUSY` set, `DONE` and `ERR` cleared, the command latched; `OVR` is not touched
(42_sequencer.md R125). -/
def latchCommand (op : Op) (addr : Byte) (value : Half) (n : State) : State :=
  { n with busy := true, done := false, err := 0#3, op := op, addr := addr, value := value }

/-- Accepting a command that runs in `EXEC` (42_sequencer.md R125). -/
def acceptExec (op : Op) (addr : Byte) (value : Half) (n : State) : State :=
  { latchCommand op addr value n with phase := .exec }

/-- `BuildWriteFrame(addr, value)` (41_framer.md R112). -/
def buildWriteFrame (addr : Byte) (value : Half) (n : State) : State :=
  { n with txbuf := writeFrame addr value, txlen := 7#3 }

/-- `BuildReadFrame(addr)` (41_framer.md R113). -/
def buildReadFrame (addr : Byte) (n : State) : State :=
  { n with txbuf := readFrame addr n.txbuf, txlen := 5#3 }

/-- Accepting `WRITE_REG`: detached it goes to `EXEC`, attached it builds its frame and sends it
(42_sequencer.md R125, R127, R133). -/
def acceptWrite (addr : Byte) (value : Half) (n : State) : State :=
  if n.attached then { buildWriteFrame addr value (latchCommand .writeReg addr value n) with phase := .tx, t := 0 }
  else acceptExec .writeReg addr value n

/-- Accepting `READ_REG`: detached it goes to `EXEC`, attached it builds its frame and sends it
(42_sequencer.md R125, R127, R134). -/
def acceptRead (addr : Byte) (value : Half) (n : State) : State :=
  if n.attached then { buildReadFrame addr (latchCommand .readReg addr value n) with phase := .tx, t := 0 }
  else acceptExec .readReg addr value n

/-- `Accept(w)` (42_sequencer.md R125). -/
def acceptWord (w : Word) (n : State) : State :=
  match wordKind w with
  | .illegal => acceptExec .illegal (addrField w) (valueField w) n
  | .attach => acceptExec .attach (addrField w) (valueField w) n
  | .detach => acceptExec .detach (addrField w) (valueField w) n
  | .writeReg => acceptWrite (addrField w) (valueField w) n
  | .readReg => acceptRead (addrField w) (valueField w) n

end Sys2Proof.Machine
end

