-- ==== Sys2Proof/Machine/Environment.lean ====
section
/-!
DEFINITION. The line driver and the wire (40_transceiver.md R90, R91; 10_state.md R36), and the far end of the wire: the
test environments of 20_memory.md R55 to R59.
-/

namespace Sys2Proof.Machine

/-- `DataLevel(bit)` (40_transceiver.md R91; 30_encoding.md R76). -/
def dataLevel (p : Params) (b : Bool) : Level :=
  if p.dataInverted then (if b then .L else .H) else (if b then .H else .L)

/-- The level of slot `j` of the character of byte `b`: start bit, eight data bits, LSB first, stop bit
(30_encoding.md R76). -/
def charLevel (p : Params) (b : Byte) (j : Nat) : Level :=
  if j = 0 then .H
  else if j = 9 then .L
  else dataLevel p (b.getLsbD (j - 1))

/-- `TxLevel(t)`: one bit period of lead-in, then the characters back to back (40_transceiver.md R91). -/
def txLevel (p : Params) (buf : FrameBuf) (t : Nat) : Level :=
  if t / p.bitCycles = 0 then .L
  else charLevel p (buf.get ((t / p.bitCycles - 1) / 10)) ((t / p.bitCycles - 1) % 10)

/-- The driver's outputs `(line_oe, line_out)` (10_state.md R36). -/
structure LineDrive where
  oe : Bool
  out : Level
  deriving DecidableEq, Repr

/-- `LineDrive(state)` (40_transceiver.md R90). -/
def lineDrive (s : State) : LineDrive :=
  match s.phase with
  | .idle => ⟨s.attached, .L⟩
  | .exec => ⟨s.attached, .L⟩
  | .tx => ⟨true, txLevel s.cfg s.txbuf s.t⟩
  | .presence => ⟨false, .L⟩
  | .settle => ⟨false, .L⟩
  | .rxWait => ⟨false, .L⟩
  | .rxBits => ⟨false, .L⟩
  | .pullup => ⟨false, .L⟩

/-- When the servo's first start bit begins, in cycles since `c_rel` (20_memory.md R57). -/
def replyStart (p : Params) (d : Nat) : Nat := p.presenceDelayCycles + 1 + p.settleCycles + d

/-- The level a replying servo gives the line, `n` cycles after `c_rel`; `after` is the level `n - (w + 70*BIT_CYCLES)` cycles
after it released the line (20_memory.md R57, R59). -/
def replyLevel (p : Params) (d : Nat) (after : Nat → Level) (r : Reply) : Level :=
  if r.since < replyStart p d then .L
  else if r.since < replyStart p d + 70 * p.bitCycles then
    charLevel p (r.bytes.get ((r.since - replyStart p d) / (10 * p.bitCycles)))
      ((r.since - replyStart p d) / p.bitCycles % 10)
  else after (r.since - (replyStart p d + 70 * p.bitCycles))

/-- `Env(c)`: the wire's level when the block does not drive it (10_state.md R36; 20_memory.md R55 to R59). With no reply running nobody
drives, and the pull-up makes the line H (00_scope.md R4; log entry 14). -/
def envLevel (s : State) : Level :=
  match s.servo.far with
  | .input => (currentInput s).env
  | .absent => .H
  | .faithful d r _ =>
    match s.servo.reply with
    | none => .H
    | some reply => replyLevel s.cfg d (fun k => if k < r then .L else .H) reply
  | .noPullup d _ =>
    match s.servo.reply with
    | none => (currentInput s).env
    | some reply => replyLevel s.cfg d (fun _ => .L) reply

/-- The resolved wire, which is `line_in`: the block's drive wins (10_state.md R36). -/
def wire (s : State) : Level := if (lineDrive s).oe then (lineDrive s).out else envLevel s

/-- This is the last cycle of a frame's last stop bit (40_transceiver.md R91). -/
def txEnds (s : State) : Bool := decide (s.t = s.cfg.txCycles s.txlen.toNat - 1)

/-- The bytes of the frame in the transmit buffer, `txbuf[0 .. txlen-1]` (40_transceiver.md R91). -/
def txFrame (s : State) : List Byte := s.txbuf.bytes.take s.txlen.toNat

/-- A servo with mystery byte `m` takes a request frame: a write request sets its register, a read request starts its reply;
any other frame is ignored (20_memory.md R56, R57). -/
def servoTake (m : Byte) (bytes : List Byte) (v : Servo) : Servo :=
  match decodeRequest bytes with
  | .ok (.wireWriteRequest a lo hi _) => { v with regs := servoWrite v.regs a (joinBytes lo hi) }
  | .ok (.wireReadRequest a _) => { v with reply := some ⟨0, responseFrame m a (servoRead v.regs a)⟩ }
  | _ => v

/-- One cycle of a reply in progress. -/
def servoAdvance (v : Servo) : Servo :=
  { v with reply := v.reply.map (fun r => { r with since := r.since + 1 }) }

/-- The far end after this cycle. The test servos take a request when its last stop bit ends on the wire (20_memory.md R56, R57; log entry
13). Before an unconstrained far end nothing is said of a servo, and the cells `servo.regs` stay as they are, whatever is sent, by the model's
choice (log entry 29); before an absent servo there is nothing to take a frame. -/
def servoNext (s : State) : Servo :=
  if s.phase = .tx ∧ txEnds s = true then
    match s.servo.far with
    | .input => servoAdvance s.servo
    | .absent => servoAdvance s.servo
    | .faithful _ _ m => servoTake m (txFrame s) (servoAdvance s.servo)
    | .noPullup _ m => servoTake m (txFrame s) (servoAdvance s.servo)
  else servoAdvance s.servo

/-- The end of a cycle: the synchroniser takes the line (40_transceiver.md R92), the far end moves on, and the cycle's inputs are
used up. -/
def endOfCycle (s n : State) : State :=
  { n with
    sync1 := wire s
    sync2 := s.sync1
    sprev := s.sync2
    servo := servoNext s
    inputs := s.inputs.tail
    cycle := s.cycle + 1 }

/-- A reset cycle: every field takes its value of 10_state.md R41, the unspecified ones a free draw (log entry 5); the synchroniser and the
far end go on, and the bus access has no effect (10_state.md R42; 42_sequencer.md R128). A frame that a reset cuts off in its last cycle is
not taken by the servo (log entry 13). -/
def resetCycle (s : State) : State :=
  let draw := Config.resetDraw s.cycle
  { s with
    attached := false
    busy := false
    done := false
    err := 0#3
    ovr := false
    rdata := 0#16
    phase := .idle
    op := draw.op
    addr := draw.addr
    value := draw.value
    txbuf := draw.txbuf
    txlen := draw.txlen
    t := 0
    rxidx := draw.rxidx
    shift := draw.shift
    rxbuf := draw.rxbuf
    ferr := draw.ferr
    sync1 := wire s
    sync2 := s.sync1
    sprev := s.sync2
    servo := servoAdvance s.servo
    inputs := s.inputs.tail
    cycle := s.cycle + 1 }

end Sys2Proof.Machine
end

