-- ==== Sys2Proof/Machine/Transceiver.lean ====
section
/-!
DEFINITION. The steps of the transceiver's phases (40_transceiver.md R91 to R100), and one received byte as a pure function
(R99). A step reads the line only through the synchronised sample `s(c) = sync2` and `sprev` (R92).
-/

namespace Sys2Proof.Machine

/-- The sample is high: `s(c) = H` (40_transceiver.md R92). -/
def lineHigh (s : State) : Bool := s.sync2 == .H

/-- A synchronised L-then-H pair (40_transceiver.md R97). -/
def startEdge (s : State) : Bool := s.sprev == .L && s.sync2 == .H

/-- `DataBit(level)` (40_transceiver.md R98). -/
def dataBit (p : Params) (l : Level) : Bool := if p.dataInverted then l == .L else l == .H

/-- The counter goes on by one. -/
def tick (s : State) : State := { s with t := s.t + 1 }

/-- `step TX` (40_transceiver.md R91). -/
def txStep (s : State) : Progress :=
  if txEnds s then
    if s.op = .writeReg then complete .ok s
    else goOn { s with phase := .presence, t := 0 }
  else goOn (tick s)

/-- `step PRESENCE` (40_transceiver.md R95). -/
def presenceStep (s : State) : Progress :=
  if s.t = s.cfg.presenceDelayCycles then
    if lineHigh s then complete .noServoDetected s
    else goOn { s with phase := .settle, t := 0 }
  else goOn (tick s)

/-- `step SETTLE` (40_transceiver.md R96). -/
def settleStep (s : State) : Progress :=
  if s.t = s.cfg.settleCycles - 1 then goOn { s with phase := .rxWait, t := 0, rxidx := 0#3, ferr := false }
  else goOn (tick s)

/-- `step RX_WAIT` (40_transceiver.md R97). An edge whose start bit began on the wire in the last two cycles of `SETTLE` is synchronised inside the
window and taken, as R92 and R97 say; 70_reset_and_hazards.md R180 calls a servo that starts before the window missed (log entry
28). -/
def rxWaitStep (s : State) : Progress :=
  if startEdge s then goOn { s with phase := .rxBits, t := 1 }
  else if s.t = s.cfg.startTimeoutCycles - 1 then complete .corruptResponse s
  else goOn (tick s)

/-- The stop-bit sample of a byte (40_transceiver.md R98). -/
def stopSample (s : State) : State :=
  let n := { s with ferr := s.ferr || lineHigh s, rxbuf := s.rxbuf.set s.rxidx.toNat s.shift }
  if s.rxidx = 6#3 then { n with phase := .pullup, t := 0 }
  else { n with rxidx := s.rxidx + 1#3, phase := .rxWait, t := 0 }

/-- This cycle is a sample point of the byte (40_transceiver.md R98). -/
def atSample (s : State) : Bool :=
  decide (s.cfg.bitCycles + s.cfg.halfCycles ≤ s.t) &&
    decide ((s.t - (s.cfg.bitCycles + s.cfg.halfCycles)) % s.cfg.bitCycles = 0)

/-- Which sample point it is: 0 to 7 are data bits, 8 is the stop bit (40_transceiver.md R98). -/
def sampleIndex (s : State) : Nat := (s.t - (s.cfg.bitCycles + s.cfg.halfCycles)) / s.cfg.bitCycles

/-- `step RX_BITS` (40_transceiver.md R98). -/
def rxBitsStep (s : State) : Progress :=
  if atSample s then
    if sampleIndex s ≤ 7 then
      goOn (tick { s with shift := setBit s.shift (sampleIndex s) (dataBit s.cfg s.sync2) })
    else goOn (stopSample s)
  else goOn (tick s)

/-- `step PULLUP` (40_transceiver.md R100). -/
def pullupStep (s : State) : Progress :=
  if lineHigh s then complete (validate s) s
  else if s.t = s.cfg.pullupWindowCycles - 1 then complete .noPullupResistor s
  else goOn (tick s)

/-- What one received byte comes to (40_transceiver.md R99). -/
inductive RxResult
  /-- No start edge in the window: `Timeout`. -/
  | timeout
  /-- The byte, whether its stop bit read H, and the start edge's cycle, counted from the window's first. -/
  | byte (b : Byte) (stopHigh : Bool) (edge : Nat)
  deriving DecidableEq, Repr

/-- The first of `n` cycles from `k` on that is a start edge; `lvl k` is the sample one cycle BEFORE cycle `k` of the
window (40_transceiver.md R99). -/
def firstEdge (lvl : Nat → Level) : Nat → Nat → Option Nat
  | 0, _ => none
  | n + 1, k => if lvl k = .L ∧ lvl (k + 1) = .H then some k else firstEdge lvl n (k + 1)

/-- The byte whose data bits the samples `lvl` give, from a start edge in cycle `e` (40_transceiver.md R99). -/
def sampledByte (p : Params) (lvl : Nat → Level) (e : Nat) : Nat → Byte
  | 0 => 0#8
  | j + 1 => setBit (sampledByte p lvl e j) j (dataBit p (lvl (e + p.samplePoint j + 1)))

/-- `RxByte(s, W)`: one received byte as a pure function of the samples. `lvl 0` is `s(W-1)` and `lvl (k+1)` is `s(W+k)`
(40_transceiver.md R99). -/
def rxByte (p : Params) (lvl : Nat → Level) : RxResult :=
  match firstEdge lvl p.startTimeoutCycles 0 with
  | none => .timeout
  | some e => .byte (sampledByte p lvl e 8) (lvl (e + p.samplePoint 8 + 1) == .H) e

end Sys2Proof.Machine
end

