-- ==== Sys2Proof/Machine/Sequencer.lean ====
section
/-!
DEFINITION. The sequencer: `EXEC` (42_sequencer.md R129), the phase step, the bus write and the whole clock cycle
(R128), and the shape one clock cycle of a command has.
-/

namespace Sys2Proof.Machine

/-- `EXEC` of `ATTACH` (42_sequencer.md R129, R131). -/
def attachStep (s : State) : Progress := complete .ok { s with attached := true }

/-- `EXEC` of `DETACH` (42_sequencer.md R129, R132). -/
def detachStep (s : State) : Progress := complete .ok { s with attached := false }

/-- `EXEC` of a `WRITE_REG` or `READ_REG` that was accepted detached (42_sequencer.md R129, R136). -/
def notAttachedStep (s : State) : Progress := complete .notAttached s

/-- `EXEC` of an illegal command (42_sequencer.md R129, R135). -/
def illegalStep (s : State) : Progress := complete .illegalCommand s

/-- `ExecStep` (42_sequencer.md R129). -/
def execStep (s : State) : Progress :=
  match s.op with
  | .illegal => illegalStep s
  | .attach => attachStep s
  | .detach => detachStep s
  | .writeReg => notAttachedStep s
  | .readReg => notAttachedStep s

/-- The phase step of a cycle (42_sequencer.md R128). -/
def phaseStep (s : State) : Progress :=
  match s.phase with
  | .idle => goOn s
  | .exec => execStep s
  | .tx => txStep s
  | .presence => presenceStep s
  | .settle => settleStep s
  | .rxWait => rxWaitStep s
  | .rxBits => rxBitsStep s
  | .pullup => pullupStep s

/-- The bus write of a cycle, applied to what the phase step gave: acceptance or overrun, or the clearing of status bits; a write to another
word does nothing (42_sequencer.md R128). `busy` is read in the state the cycle began with (R126). -/
def busWrite (s : State) (p : Progress) : State :=
  if (currentInput s).writes then
    if (currentInput s).busWord = 0#2 then
      if s.busy then { p.next with ovr := true } else acceptWord (currentInput s).busWdata p.next
    else if (currentInput s).busWord = 1#2 then writeStatus p.completed (currentInput s).busWdata p.next
    else p.next
  else p.next

/-- One whole clock cycle with `rst = 0` (42_sequencer.md R128). -/
def cycleStep (s : State) : State := endOfCycle s (busWrite s (phaseStep s))

/-- One clock cycle of a command. A block that is not busy accepts it in this cycle (42_sequencer.md R125). A busy block is running it:
this cycle takes its next phase step, `EXEC` being the command's own, and with it whatever else the bus asks for (R128). -/
def commandCycle (accept : State → State) (ownExec : State → Progress) (s : State) : State :=
  if s.busy then
    match s.phase with
    | .exec => endOfCycle s (busWrite s (ownExec s))
    | _ => cycleStep s
  else endOfCycle s (accept (phaseStep s).next)

end Sys2Proof.Machine
end

