-- ==== Sys2Proof/Machine/Commands.lean ====
section
/-!
DEFINITION. The meanings of the commands (42_sequencer.md R131 to R136; 30_encoding.md R84): what one clock cycle of the
command does.
-/

namespace Sys2Proof.Machine

/-- `ATTACH` (42_sequencer.md R131). -/
def execAttach (addr : Byte) (value : Half) (s : State) : Host.Outcome State Fault Refusal :=
  .next (commandCycle (acceptExec .attach addr value) attachStep s)

/-- `DETACH` (42_sequencer.md R132). -/
def execDetach (addr : Byte) (value : Half) (s : State) : Host.Outcome State Fault Refusal :=
  .next (commandCycle (acceptExec .detach addr value) detachStep s)

/-- `WRITE_REG addr, value` (42_sequencer.md R133, R136). -/
def execWriteReg (addr : Byte) (value : Half) (s : State) : Host.Outcome State Fault Refusal :=
  .next (commandCycle (acceptWrite addr value) notAttachedStep s)

/-- `READ_REG addr` (42_sequencer.md R134, R136). -/
def execReadReg (addr : Byte) (value : Half) (s : State) : Host.Outcome State Fault Refusal :=
  .next (commandCycle (acceptRead addr value) notAttachedStep s)

/-- `READ_MODEL`, which is `READ_REG 0x00` (30_encoding.md R84). -/
def execReadModel (s : State) : Host.Outcome State Fault Refusal :=
  .next (commandCycle (acceptRead 0x00#8 0x0000#16) notAttachedStep s)

/-- An illegal command word (42_sequencer.md R135). -/
def execIllegal (word : Word) (s : State) : Host.Outcome State Fault Refusal :=
  .next (commandCycle (acceptExec .illegal (addrField word) (valueField word)) illegalStep s)

end Sys2Proof.Machine
end

