-- ==== Sys2Proof/Machine/WireFrames.lean ====
section
/-!
DEFINITION. The meanings of the wire frames (30_encoding.md R77 to R79): what one clock cycle does with the frame in the
block's buffer (log entry 10). A request stands in `txbuf` and is being sent (40_transceiver.md R91); a response stands in `rxbuf` and
waits for the pull-up check and its validation (40_transceiver.md R100; 41_framer.md R119).
-/

namespace Sys2Proof.Machine

/-- The state with a write request in the transmit buffer. -/
def withWriteRequest (addr lo hi c : Byte) (s : State) : State :=
  { s with txbuf := writeRequestBuf addr lo hi c, txlen := 7#3 }

/-- The state with a read request in the transmit buffer. -/
def withReadRequest (addr c : Byte) (s : State) : State :=
  { s with txbuf := readRequestBuf addr c s.txbuf, txlen := 5#3 }

/-- The state with a response in the receive buffer. -/
def withResponse (mystery addrEcho lo hi c : Byte) (s : State) : State :=
  { s with rxbuf := responseBuf mystery addrEcho lo hi c }

/-- One cycle with the write request `96 00 addr 02 lo hi cks` on the wire: in its last cycle the write completes and a test
servo takes the value (40_transceiver.md R91; 20_memory.md R56). -/
def execWireWriteRequest (addr lo hi c : Byte) (s : State) : Host.Outcome State Fault Refusal :=
  .next (cycleStep (withWriteRequest addr lo hi c s))

/-- One cycle with the read request `96 00 addr 00 cks` on the wire: in its last cycle the line is given up and a test servo
starts its reply (40_transceiver.md R91, R94; 20_memory.md R57). -/
def execWireReadRequest (addr c : Byte) (s : State) : Host.Outcome State Fault Refusal :=
  .next (cycleStep (withReadRequest addr c s))

/-- One cycle with the response `69 mystery addrEcho 02 lo hi cks2` received: when the line reads high it is validated and, if good,
read into `RDATA` (40_transceiver.md R100; 41_framer.md R119, R120). -/
def execWireReadResponse (mystery addrEcho lo hi c2 : Byte) (s : State) : Host.Outcome State Fault Refusal :=
  .next (cycleStep (withResponse mystery addrEcho lo hi c2 s))

end Sys2Proof.Machine
end

