-- ==== Sys2Proof/Machine/Dispatch.lean ====
section
/-!
DEFINITION. The dispatch of an instruction to its meaning, one arm for each constructor.
-/

namespace Sys2Proof.Machine

def exec (i : Instr) (s : State) : Host.Outcome State Fault Refusal :=
  match i with
  | .attach addr value => Sys2Proof.Machine.execAttach addr value s
  | .detach addr value => Sys2Proof.Machine.execDetach addr value s
  | .writeReg addr value => Sys2Proof.Machine.execWriteReg addr value s
  | .readReg addr value => Sys2Proof.Machine.execReadReg addr value s
  | .readModel => Sys2Proof.Machine.execReadModel s
  | .illegal word => Sys2Proof.Machine.execIllegal word s
  | .wireWriteRequest addr lo hi c => Sys2Proof.Machine.execWireWriteRequest addr lo hi c s
  | .wireReadRequest addr c => Sys2Proof.Machine.execWireReadRequest addr c s
  | .wireReadResponse mystery addrEcho lo hi c2 => Sys2Proof.Machine.execWireReadResponse mystery addrEcho lo hi c2 s

end Sys2Proof.Machine
end

