-- ==== Sys2Proof/Machine/Fetch.lean ====
section
/-!
DEFINITION. Which instruction a clock cycle runs, and how one is placed there. The block fetches nothing from a memory
(20_memory.md R66): a command comes from the host's write to `CMD`, and a running one from the registers that latched it.
-/

namespace Sys2Proof.Machine

/-- The command word of the latched command: the decoded kind and the two latched fields (42_sequencer.md R125; log entry
11). -/
def latchedWord (s : State) : Word := commandWord s.op.code s.addr s.value

/-- The instruction that a busy block runs in this cycle: the request being sent while it is in `TX`, the response received while it waits in
`PULLUP`, and the latched command otherwise, or where the buffer holds no frame of 30_encoding.md R77 to R79. -/
def running (s : State) : Instr :=
  match s.phase with
  | .tx =>
    match decodeRequest (txFrame s) with
    | .ok i => i
    | .error _ => decodeWord (latchedWord s)
  | .pullup =>
    match decodeResponse s.rxbuf.bytes with
    | .ok i => i
    | .error _ => decodeWord (latchedWord s)
  | _ => decodeWord (latchedWord s)

/-- The instruction of this cycle: the running one; in an idle block the one the host writes to `CMD`, if it does
(42_sequencer.md R125, R126). -/
def fetch (s : State) : Option Instr :=
  if s.busy then some (running s)
  else if (currentInput s).writesCmd then some (decodeWord (currentInput s).busWdata)
  else none

/-- The level a placed cycle gives the line: this cycle's listed one, and H, the pull-up's, where none is listed
(log entry 22). -/
def placedEnv (s : State) : Level := (s.inputs.headD (idleInput .H)).env

/-- The state with this cycle's inputs replaced. -/
def placeInput (x : CycleInput) (s : State) : State := { s with inputs := x :: s.inputs.tail }

/-- The state with a frame in the block's buffer and the phase that works on it: a request about to be sent, a response about to be
checked. -/
def placeFrame (s : State) : Instr → State
  | .wireWriteRequest a lo hi c =>
    { s with txbuf := writeRequestBuf a lo hi c, txlen := 7#3, op := .writeReg, busy := true, phase := .tx, t := 0 }
  | .wireReadRequest a c =>
    { s with txbuf := readRequestBuf a c s.txbuf, txlen := 5#3, op := .readReg, busy := true, phase := .tx, t := 0 }
  | .wireReadResponse m a lo hi c =>
    { s with rxbuf := responseBuf m a lo hi c, op := .readReg, busy := true, phase := .pullup, t := 0 }
  | _ => s

/-- Placing an encoding so that the next step runs it: a command word is what the host writes to `CMD` of an idle block in this
cycle; a frame is put into the buffer it is sent or received in. -/
def placeCode (s : State) : Code → State
  | .word w => placeInput (writeInput 0#2 w (placedEnv s)) { s with busy := false, phase := .idle }
  | .frame bytes =>
    match decodeFrame bytes with
    | .ok i => placeInput (idleInput (placedEnv s)) (placeFrame s i)
    | .error _ => s

end Sys2Proof.Machine
end

