-- ==== Sys2Proof/Machine/Step.lean ====
section
/-!
DEFINITION. One step of the machine: one clock cycle (00_scope.md R10; 42_sequencer.md R128).
-/

namespace Sys2Proof.Machine

/-- One clock cycle. Parameters out of range are refused, whatever else the state holds (log entry 7). `rst = 1` wins over everything
(60_exceptions.md R153), so a reset cycle starts the block from any power-on state, one with an impossible `ERR` too (70_reset_and_hazards.md
R171; log entry 8). A cycle that runs an instruction is that instruction's meaning; any other cycle is an idle one, with the bus write it may
hold (42_sequencer.md R128). -/
def step (s : State) : Host.Outcome State Fault Refusal :=
  if s.cfg.valid = false then .refused .parametersOutOfRange
  else if (currentInput s).rst then .next (resetCycle s)
  else if 5#3 < s.err then .fault .errCodeNeverProduced
  else
    match fetch s with
    | some i => exec i s
    | none => .next (cycleStep s)

/-- `s` with the instruction of `nbits` bits `w` placed where the next step takes its instruction from. -/
def State.withFetchWord (s : State) (nbits w : Nat) : State :=
  match codeOfTableWord nbits w with
  | some c => placeCode s c
  | none => s

end Sys2Proof.Machine
end

