-- ==== Sys2Proof/Machine/HostBus.lean ====
section
/-!
DEFINITION. The host's side of the bus: the register map (10_state.md R23; 20_memory.md R50), the assembler syntax
(30_encoding.md R83, R84) and the notation of host programs (R85).
-/

namespace Sys2Proof.Machine

/-- The registers of the host window (10_state.md R23). -/
inductive HostReg
  | cmd
  | status
  | rdata
  | reserved
  deriving DecidableEq, Repr

/-- `off(REG)`, the byte offset of a register (10_state.md R23; 30_encoding.md R85). -/
def HostReg.offset : HostReg → Nat
  | .cmd => 0x0
  | .status => 0x4
  | .rdata => 0x8
  | .reserved => 0xC

/-- The word index of a register, `off >> 2` (20_memory.md R50). -/
def HostReg.word (r : HostReg) : BitVec 2 := BitVec.ofNat 2 (r.offset / 4)

/-- A line of assembly: a mnemonic with its operands as written (30_encoding.md R83, R84). -/
inductive AsmLine
  | attach
  | detach
  | writeReg (addr value : Nat)
  | readReg (addr : Nat)
  | readModel
  deriving DecidableEq, Repr

/-- The word a line assembles to; a number out of range is an assembly error (30_encoding.md R83). -/
def assemble : AsmLine → Option Word
  | .attach => some 0x00000001#32
  | .detach => some 0x00000002#32
  | .writeReg addr value =>
    if addr ≤ 255 ∧ value ≤ 65535 then some (BitVec.ofNat 32 (value * 65536 + addr * 256 + 0x3)) else none
  | .readReg addr => if addr ≤ 255 then some (BitVec.ofNat 32 (addr * 256 + 0x4)) else none
  | .readModel => some 0x00000004#32

/-- `WR <REG>, <imm32>` (30_encoding.md R85). -/
def wr (r : HostReg) (imm : Word) (env : Level) : CycleInput := writeInput r.word imm env

/-- `RD <REG>` (30_encoding.md R85). -/
def rd (r : HostReg) (env : Level) : CycleInput := readInput r.word env

/-- `ISSUE <mnemonic operands>` (30_encoding.md R85). -/
def issue (l : AsmLine) (env : Level) : Option CycleInput := (assemble l).map (fun w => wr .cmd w env)

/-- `CLEAR_DONE` (30_encoding.md R85). -/
def clearDone (env : Level) : CycleInput := wr .status 0x00000002#32 env

/-- `WAIT_IDLE` that takes `n` reads of `STATUS` (30_encoding.md R85); the host goes on when a read shows `BUSY = 0`. -/
def waitIdle (n : Nat) (env : Level) : List CycleInput := List.replicate n (rd .status env)

/-- The read data that ends `WAIT_IDLE`: `st[0] = 0` (30_encoding.md R85). -/
def endsWaitIdle (st : Word) : Bool := !st.getLsbD 0

end Sys2Proof.Machine
end

