-- ==== Sys2Proof/Safety.lean ====
section
/-!
DEFINITION. The terms that statements about the machine use: runs, the samples of the line, the machine's invariant and what
a cycle leaves alone.
-/

namespace Sys2Proof.Machine

/-- `n` steps of the machine. -/
def runCycles (n : Nat) (s : State) : Host.Outcome State Fault Refusal := Sys2Proof.core.run n s

/-- No reset is listed among the inputs of the next `n` cycles. -/
def Quiet (n : Nat) (s : State) : Prop := ∀ x ∈ s.inputs.take n, x.rst = false

/-- The state meets what `step` asks of every state: parameters in range (00_scope.md R7) and a result code that can
occur (60_exceptions.md R150). -/
def Runnable (s : State) : Prop := s.cfg.valid = true ∧ s.err ≤ 5#3

/-- Env in the cycle `k` cycles from now, where the far end is an unconstrained input (10_state.md R36). -/
def futureEnv (s : State) (k : Nat) : Level :=
  ((s.inputs.drop k).headD (idleInput (Config.freeEnv (s.cycle + k)))).env

/-- The synchronised samples from the last cycle on: `samples s 0` is `s(c-1)` and `samples s (k+1)` is `s(c+k)` for the present
cycle `c`, while the block does not drive the line (40_transceiver.md R92). -/
def samples (s : State) : Nat → Level
  | 0 => s.sprev
  | 1 => s.sync2
  | 2 => s.sync1
  | k + 3 => futureEnv s k

/-- The instruction is `READ_REG`, or `READ_MODEL`, which stands for it (30_encoding.md R84). -/
def IsRead (i : Instr) : Prop := i = .readModel ∨ ∃ addr value, i = .readReg addr value

/-- A read is past its request: the block is attached, busy with a `READ_REG`. -/
def Receiving (s : State) : Prop := s.busy = true ∧ s.attached = true ∧ s.op = .readReg

/-- What each phase has of the registers it works on (10_state.md R21; 40_transceiver.md R91 to R100; 42_sequencer.md
R125 to R129). -/
def PhaseInv (s : State) : Prop :=
  match s.phase with
  | .idle => s.busy = false ∧ s.t = 0
  | .exec => s.busy = true ∧ s.t = 0 ∧ (s.op = .writeReg ∨ s.op = .readReg → s.attached = false)
  | .tx =>
    s.busy = true ∧ s.attached = true ∧ s.t < s.cfg.txCycles s.txlen.toNat ∧
      ((s.op = .writeReg ∧ s.txlen = 7#3 ∧ s.txbuf = writeFrame s.addr s.value) ∨
        (s.op = .readReg ∧ s.txlen = 5#3 ∧ s.txbuf = readFrame s.addr s.txbuf))
  | .presence => Receiving s ∧ s.t ≤ s.cfg.presenceDelayCycles
  | .settle => Receiving s ∧ s.t < s.cfg.settleCycles
  | .rxWait => Receiving s ∧ s.t < s.cfg.startTimeoutCycles ∧ s.rxidx ≤ 6#3
  | .rxBits => Receiving s ∧ 1 ≤ s.t ∧ s.t ≤ s.cfg.samplePoint 8 ∧ s.rxidx ≤ 6#3
  | .pullup => Receiving s ∧ s.t < s.cfg.pullupWindowCycles

/-- The machine's invariant: its parameters are in range, its result code is one of 60_exceptions.md R150, a busy block shows neither
`DONE` nor a result (10_state.md R30 to R32), the servo's registers are in canonical form, and each phase has what it works
on. -/
def Inv (s : State) : Prop :=
  s.cfg.valid = true ∧ s.err ≤ 5#3 ∧ (s.busy = true → s.done = false ∧ s.err = 0#3) ∧ s.servo.regs.wf = true ∧
    PhaseInv s

/-- No byte of the servo's registers changed. It speaks of the cells `servo.regs`, which only a test servo's request changes: log entries 13 and
29 say what that leaves open of a real servo. -/
def KeepsServoRegs (s t : State) : Prop := ∀ k, t.servo.regs.read k = s.servo.regs.read k

/-- `OVR` after a cycle of a busy block: set by a write to `CMD`, cleared by a write to `STATUS` with bit 6, else kept
(10_state.md R34). -/
def busyOvr (s : State) : Bool :=
  if (currentInput s).writesCmd then true
  else if (currentInput s).writes ∧ (currentInput s).busWord = 1#2 then s.ovr && !clearsOvr (currentInput s).busWdata
  else s.ovr

/-- `DONE` after a cycle in which nothing completes and nothing is accepted: cleared by a write to `STATUS` with bit 1, else kept
(10_state.md R31). -/
def keptDone (s : State) : Bool :=
  if (currentInput s).writes ∧ (currentInput s).busWord = 1#2 then s.done && !clearsDone (currentInput s).busWdata
  else s.done

/-- The state after a cycle of a busy block in which the command goes on: the phase step's registers `n`, with `DONE` and `OVR` as the bus
leaves them. -/
def wentOn (s n : State) : State := endOfCycle s { n with done := keptDone s, ovr := busyOvr s }

/-- The state after a cycle of a busy block in which the command completes with `code` (42_sequencer.md R139): `n` holds the registers the
command itself wrote; `DONE` is set whatever the bus does (10_state.md R35). -/
def completedWith (code : ResultCode) (s n : State) : State :=
  endOfCycle s { n with busy := false, done := true, err := code.code, phase := .idle, t := 0, ovr := busyOvr s }

/-- The result code with which this cycle's phase step completes the running command, if it does (42_sequencer.md R129; 40_transceiver.md R91, R95,
R97, R100). -/
def resultNow (s : State) : Option ResultCode :=
  match s.phase with
  | .exec =>
    some (if s.op = .illegal then .illegalCommand else if s.op = .writeReg ∨ s.op = .readReg then .notAttached else .ok)
  | .tx => if s.op = .writeReg ∧ s.t = s.cfg.bitCycles * (1 + 10 * s.txlen.toNat) - 1 then some .ok else none
  | .presence => if s.t = s.cfg.presenceDelayCycles ∧ s.sync2 = .H then some .noServoDetected else none
  | .rxWait =>
    if ¬(s.sprev = .L ∧ s.sync2 = .H) ∧ s.t = s.cfg.startTimeoutCycles - 1 then some .corruptResponse else none
  | .pullup =>
    if s.sync2 = .H then some (validate s)
    else if s.t = s.cfg.pullupWindowCycles - 1 then some .noPullupResistor
    else none
  | .idle => none
  | .settle => none
  | .rxBits => none

/-- In the next `n` cycles no `WRITE_REG` to `a` is accepted; a `rst` in a cycle leaves its bus access without effect
(42_sequencer.md R125; 10_state.md R42). -/
def NoWriteTo (a : Byte) (n : Nat) (s : State) : Prop :=
  ∀ (k : Nat) (u : State) (v : Half), k < n → runCycles k s = .next u → (currentInput u).rst = false → u.busy = false →
    fetch u ≠ some (.writeReg a v)

/-- Two states agree on everything but `DONE`, `OVR` and what the host does on the bus: their listed inputs agree on `rst` and
on the line. -/
def AgreeButBus (s s' : State) : Prop :=
  { s with done := s'.done, ovr := s'.ovr, inputs := s'.inputs } = s' ∧
    s.inputs.map (fun x => (x.rst, x.env)) = s'.inputs.map (fun x => (x.rst, x.env))

end Sys2Proof.Machine
end

