-- ==== Sys2Proof/Certificates/Slice0/Obligations.lean ====
section
/-!
DEFINITION. The statements for the provers. Each docstring names the rules it formalises. What a statement says of the servo's registers
(`KeepsServoRegs`, `servo.regs`) it says of the model's cells, as log entries 13 and 29 have them.
-/

open Sys2Proof Sys2Proof.Machine

/-! ### Encodings -/

/-- No bit of an encoding is dropped: decoding the encoding of a well-formed instruction gives it back (30_encoding.md R70, R75,
R77 to R79). The name of the word 0x00000004 is the model's choice, log entry 9. -/
def Obligations.DecodeEncodeRoundTrip : Prop :=
  ∀ i : Instr, i.wellFormed = true → decode (encode i) = .ok i

/-- Every code has one meaning: what decodes is well formed and encodes back to the same code (30_encoding.md R75, R82).
That the word 0x00000004 decodes to `readModel` is the model's choice, log entry 9. -/
def Obligations.EncodeDecodeRoundTrip : Prop :=
  ∀ (c : Code) (i : Instr), decode c = .ok i → encode i = c ∧ i.wellFormed = true

/-- The decoded kind and fields of a command word, as arithmetic on the word's value (30_encoding.md R70, R75). -/
def Obligations.CommandKindFollowsTheTable : Prop :=
  ∀ w : Word,
    wordKind w =
      (if w.toNat / 16 % 16 ≠ 0 then Op.illegal
       else if w.toNat % 16 = 1 then Op.attach
       else if w.toNat % 16 = 2 then Op.detach
       else if w.toNat % 16 = 3 then Op.writeReg
       else if w.toNat % 16 = 4 then Op.readReg
       else Op.illegal) ∧
    (addrField w).toNat = w.toNat / 256 % 256 ∧ (valueField w).toNat = w.toNat / 65536

/-- A few command words and frames of 95_test_vectors.md (V-DEC, V-WF, V-RF, V-RESP) decode to the instructions named there. That the word
0x00000004 decodes to the constructor `readModel`, where 30_encoding.md R75 says `ReadReg(0x00)`, is the model's choice, log
entry 9. -/
def Obligations.SampleWordsDecode : Prop :=
  decodeWord 0x12341E03#32 = .writeReg 0x1E#8 0x1234#16 ∧
  decodeWord 0x00001E04#32 = .readReg 0x1E#8 0x0000#16 ∧
  decodeWord 0xFFFF0001#32 = .attach 0x00#8 0xFFFF#16 ∧
  decodeWord 0x00000002#32 = .detach 0x00#8 0x0000#16 ∧
  decodeWord 0x00000004#32 = .readModel ∧
  decodeWord 0x00000013#32 = .illegal 0x00000013#32 ∧
  decodeFrame [0x96#8, 0x00#8, 0x1E#8, 0x02#8, 0x34#8, 0x12#8, 0x66#8] =
    .ok (.wireWriteRequest 0x1E#8 0x34#8 0x12#8 0x66#8) ∧
  decodeFrame [0x96#8, 0x00#8, 0x1E#8, 0x00#8, 0x1E#8] = .ok (.wireReadRequest 0x1E#8 0x1E#8) ∧
  decodeFrame [0x69#8, 0x5A#8, 0x32#8, 0x02#8, 0xFF#8, 0x00#8, 0x8D#8] =
    .ok (.wireReadResponse 0x5A#8 0x32#8 0xFF#8 0x00#8 0x8D#8)

/-! ### A step and its instruction -/

/-- A step with `rst = 0` is the meaning of the instruction the cycle runs: in an idle block the word the host writes to `CMD`, in a busy one the
running instruction. A cycle that runs none is the cycle of 42_sequencer.md R128, and leaves all of an idle block alone but for the status
bits a write to `STATUS` clears. That a cycle is the meaning of one instruction is the model's reading, log entry 1, and that a busy cycle's
is `running s` is the model's choice, log entry 11; R125, R126 and R128 say what the cycle does. -/
def Obligations.StepRunsTheFetchedInstruction : Prop :=
  ∀ s : State, Runnable s → (currentInput s).rst = false →
    (∀ i, fetch s = some i → step s = exec i s) ∧
    (s.busy = false → (currentInput s).writesCmd = true →
      fetch s = some (decodeWord (currentInput s).busWdata)) ∧
    (s.busy = true → fetch s = some (running s)) ∧
    (s.busy = false → (currentInput s).writesCmd = false → fetch s = none) ∧
    (fetch s = none → step s = .next (cycleStep s)) ∧
    (fetch s = none → s.phase = .idle → ∃ t, step s = .next t ∧ KeepsServoRegs s t ∧ t = wentOn s s)

/-- The instruction a busy cycle runs: the request being sent in `TX`, with the latched operands; a response of 30_encoding.md R79 that waits in
`PULLUP`; and everywhere else the latched command, whatever the host writes meanwhile (42_sequencer.md R125; 20_memory.md R66). That the running
instruction has this name is the model's choice, log entries 10 and 11. -/
def Obligations.RunningInstructionIsTheLatchedCommand : Prop :=
  ∀ s : State, Inv s → s.busy = true →
    (s.phase = .tx → s.op = .writeReg →
      fetch s = some (.wireWriteRequest s.addr (lowByte s.value) (highByte s.value)
        (0x00#8 + s.addr + 0x02#8 + lowByte s.value + highByte s.value))) ∧
    (s.phase = .tx → s.op = .readReg → fetch s = some (.wireReadRequest s.addr s.addr)) ∧
    (s.phase = .pullup → ∀ i, decodeResponse s.rxbuf.bytes = .ok i → fetch s = some i) ∧
    (s.phase = .exec ∨ s.phase = .presence ∨ s.phase = .settle ∨ s.phase = .rxWait ∨ s.phase = .rxBits ∨
        (s.phase = .pullup ∧ ∃ e, decodeResponse s.rxbuf.bytes = .error e) →
      (s.op = .attach → fetch s = some (.attach s.addr s.value)) ∧
      (s.op = .detach → fetch s = some (.detach s.addr s.value)) ∧
      (s.op = .writeReg → fetch s = some (.writeReg s.addr s.value)) ∧
      (s.op = .readReg → s.addr = 0x00#8 → s.value = 0x0000#16 → fetch s = some .readModel) ∧
      (s.op = .readReg → s.addr ≠ 0x00#8 ∨ s.value ≠ 0x0000#16 → fetch s = some (.readReg s.addr s.value)) ∧
      (s.op = .illegal → ∃ w, illegalWord w = true ∧ fetch s = some (.illegal w)))

/-- Whatever instruction a cycle runs, the step is the one cycle function of 42_sequencer.md R128, the reset cycle where
`rst = 1`. -/
def Obligations.StepIsTheCycleStep : Prop :=
  ∀ s : State, Runnable s →
    step s = .next (if (currentInput s).rst then resetCycle s else cycleStep s)

/-- What stops a step: parameters out of range are refused, and a result code 6 or 7 is a fault where `rst = 0`; a reset cycle runs in every
other state, and nothing else stops a step (93_implementation_defined.md S6, S7; 60_exceptions.md R153). That the two checks are made at every
step, and the parameters' one before `rst`, is the model's reading, log entries 7 and 8. -/
def Obligations.StepStopsOnlyThere : Prop :=
  ∀ s : State,
    (s.cfg.valid = false → step s = .refused .parametersOutOfRange) ∧
    (s.cfg.valid = true → (currentInput s).rst = true → ∃ t, step s = .next t) ∧
    (s.cfg.valid = true → (currentInput s).rst = false → 5#3 < s.err → step s = .fault .errCodeNeverProduced) ∧
    (Runnable s → ∃ t, step s = .next t)

/-! ### Acceptance -/

/-- An idle block accepts `ATTACH`, `DETACH` and an illegal word: it becomes busy in `EXEC` with the command latched, `DONE` and `ERR`
cleared, and changes nothing else (42_sequencer.md R125). -/
def Obligations.ExecCommandsAreAccepted : Prop :=
  ∀ (s : State) (addr : Byte) (value : Half) (w : Word), s.busy = false → s.phase = .idle →
    (∃ t, exec (.attach addr value) s = .next t ∧ KeepsServoRegs s t ∧
      t = endOfCycle s { s with busy := true, done := false, err := 0#3, op := .attach, addr := addr, value := value,
                                phase := .exec }) ∧
    (∃ t, exec (.detach addr value) s = .next t ∧ KeepsServoRegs s t ∧
      t = endOfCycle s { s with busy := true, done := false, err := 0#3, op := .detach, addr := addr, value := value,
                                phase := .exec }) ∧
    (∃ t, exec (.illegal w) s = .next t ∧ KeepsServoRegs s t ∧
      t = endOfCycle s { s with busy := true, done := false, err := 0#3, op := .illegal, addr := addrField w,
                                value := valueField w, phase := .exec })

/-- An idle, attached block accepts `WRITE_REG`: it builds the write frame and enters `TX` at count 0 (42_sequencer.md R125, R133;
41_framer.md R112). -/
def Obligations.AttachedWriteIsAccepted : Prop :=
  ∀ (s : State) (addr : Byte) (value : Half), s.busy = false → s.phase = .idle → s.attached = true →
    ∃ t, exec (.writeReg addr value) s = .next t ∧ KeepsServoRegs s t ∧
      t = endOfCycle s { s with busy := true, done := false, err := 0#3, op := .writeReg, addr := addr, value := value,
                                phase := .tx, t := 0, txlen := 7#3,
                                txbuf := ⟨0x96#8, 0x00#8, addr, 0x02#8, lowByte value, highByte value,
                                  0x00#8 + addr + 0x02#8 + lowByte value + highByte value⟩ }

/-- An idle, attached block accepts `READ_REG` and `READ_MODEL`: it builds the read frame in the first five bytes of the buffer and enters
`TX` at count 0 (42_sequencer.md R125, R134; 41_framer.md R113; 30_encoding.md R84). -/
def Obligations.AttachedReadIsAccepted : Prop :=
  ∀ (s : State) (i : Instr) (addr : Byte) (value : Half),
    (i = .readReg addr value ∨ (i = .readModel ∧ addr = 0x00#8 ∧ value = 0x0000#16)) →
    s.busy = false → s.phase = .idle → s.attached = true →
    ∃ t, exec i s = .next t ∧ KeepsServoRegs s t ∧
      t = endOfCycle s { s with busy := true, done := false, err := 0#3, op := .readReg, addr := addr, value := value,
                                phase := .tx, t := 0, txlen := 5#3,
                                txbuf := ⟨0x96#8, 0x00#8, addr, 0x00#8, addr, s.txbuf.b5, s.txbuf.b6⟩ }

/-- An idle, detached block accepts `WRITE_REG`, `READ_REG` and `READ_MODEL` into `EXEC` and builds no frame
(42_sequencer.md R125, R127, R136). -/
def Obligations.DetachedReadOrWriteIsAccepted : Prop :=
  ∀ (s : State) (addr : Byte) (value : Half), s.busy = false → s.phase = .idle → s.attached = false →
    (∃ t, exec (.writeReg addr value) s = .next t ∧ KeepsServoRegs s t ∧
      t = endOfCycle s { s with busy := true, done := false, err := 0#3, op := .writeReg, addr := addr, value := value,
                                phase := .exec }) ∧
    (∃ t, exec (.readReg addr value) s = .next t ∧ KeepsServoRegs s t ∧
      t = endOfCycle s { s with busy := true, done := false, err := 0#3, op := .readReg, addr := addr, value := value,
                                phase := .exec }) ∧
    (∃ t, exec .readModel s = .next t ∧ KeepsServoRegs s t ∧
      t = endOfCycle s { s with busy := true, done := false, err := 0#3, op := .readReg, addr := 0x00#8, value := 0x0000#16,
                                phase := .exec })

/-- `READ_MODEL` is `READ_REG 0x00`: the same line of assembly, the word 0x00000004, and the same effect in every state
(30_encoding.md R84). That the decoder names this word `READ_MODEL` is the model's choice, log entry 9. -/
def Obligations.ReadModelIsReadRegZero : Prop :=
  assemble .readModel = some 0x00000004#32 ∧ assemble (.readReg 0x00) = assemble .readModel ∧
    decodeWord 0x00000004#32 = .readModel ∧ ∀ s : State, exec .readModel s = exec (.readReg 0x00#8 0x0000#16) s

/-! ### Commands that run in EXEC -/

/-- `ATTACH` in `EXEC`: attached, completed with `OK`, nothing else changed but what the bus does to `OVR`
(42_sequencer.md R129, R131, R139). -/
def Obligations.AttachExecutes : Prop :=
  ∀ (s : State) (addr : Byte) (value : Half), s.busy = true → s.phase = .exec → s.op = .attach →
    ∃ t, exec (.attach addr value) s = .next t ∧ KeepsServoRegs s t ∧
      t = completedWith .ok s { s with attached := true }

/-- `DETACH` in `EXEC`: detached, completed with `OK`; `RDATA` is kept (42_sequencer.md R129, R132, R139). -/
def Obligations.DetachExecutes : Prop :=
  ∀ (s : State) (addr : Byte) (value : Half), s.busy = true → s.phase = .exec → s.op = .detach →
    ∃ t, exec (.detach addr value) s = .next t ∧ KeepsServoRegs s t ∧
      t = completedWith .ok s { s with attached := false }

/-- An illegal word in `EXEC` completes with `IllegalCommand`, `ERR = 5`; nothing else changes (42_sequencer.md R129, R135). -/
def Obligations.IllegalCommandExecutes : Prop :=
  ∀ (s : State) (w : Word), s.busy = true → s.phase = .exec → s.op = .illegal →
    ∃ t, exec (.illegal w) s = .next t ∧ KeepsServoRegs s t ∧ t.err = 5#3 ∧ t = completedWith .illegalCommand s s

/-- `WRITE_REG`, `READ_REG` and `READ_MODEL` in `EXEC` complete with `NotAttached`, `ERR = 4`; `RDATA` and the buffers are unchanged
(42_sequencer.md R129, R136). -/
def Obligations.NotAttachedExecutes : Prop :=
  ∀ (s : State) (i : Instr), s.busy = true → s.phase = .exec →
    ((∃ addr value, i = .writeReg addr value) ∧ s.op = .writeReg ∨ IsRead i ∧ s.op = .readReg) →
    ∃ t, exec i s = .next t ∧ KeepsServoRegs s t ∧ t.err = 4#3 ∧ t = completedWith .notAttached s s

/-! ### Sending -/

/-- `WRITE_REG` in `TX`: each cycle counts on, and the last one, `71*BIT_CYCLES` cycles after the first, completes it with `OK` and leaves
`RDATA` alone; the servo's registers change at most at the frame's address (40_transceiver.md R91; 42_sequencer.md R133;
20_memory.md R56).
That a test servo takes the frame at the end of its last cycle is the model's reading, log entry 13, and that the cells keep their values before an
unconstrained far end is its choice, log entry 29. -/
def Obligations.WriteRegSends : Prop :=
  ∀ (s : State) (addr : Byte) (value : Half), s.busy = true → s.phase = .tx → s.op = .writeReg → s.txlen = 7#3 →
    (s.t ≠ s.cfg.bitCycles * 71 - 1 →
      ∃ t, exec (.writeReg addr value) s = .next t ∧ KeepsServoRegs s t ∧ t = wentOn s { s with t := s.t + 1 }) ∧
    (s.t = s.cfg.bitCycles * 71 - 1 →
      ∃ t, exec (.writeReg addr value) s = .next t ∧ t = completedWith .ok s s ∧
        ∀ k, k ≠ 2 * s.txbuf.b2.toNat → k ≠ 2 * s.txbuf.b2.toNat + 1 → t.servo.regs.read k = s.servo.regs.read k)

/-- A cycle of a write request on the wire: the frame stands in the buffer and the count goes on; in the last cycle the write completes with
`OK`, a faithful servo has the value in register `addr`, and no other byte of its registers changes
(40_transceiver.md R91; 20_memory.md R56). That a frame's meaning is one cycle with the frame in `txbuf` is the model's choice, log entry 10;
that the servo holds the value after that very cycle is the model's reading, log entry 13, since 20_memory.md R64 leaves the time
open. That the cells keep their values before an unconstrained far end is the model's choice, log entry 29. -/
def Obligations.WireWriteRequestRuns : Prop :=
  ∀ (s : State) (addr lo hi : Byte), s.busy = true → s.phase = .tx → s.op = .writeReg → s.servo.regs.wf = true →
    let c := 0x00#8 + addr + 0x02#8 + lo + hi
    let sent := { s with txbuf := ⟨0x96#8, 0x00#8, addr, 0x02#8, lo, hi, c⟩, txlen := 7#3 }
    (s.t ≠ s.cfg.bitCycles * 71 - 1 →
      ∃ t, exec (.wireWriteRequest addr lo hi c) s = .next t ∧ KeepsServoRegs s t ∧
        t = wentOn sent { sent with t := s.t + 1 }) ∧
    (s.t = s.cfg.bitCycles * 71 - 1 →
      ∃ t, exec (.wireWriteRequest addr lo hi c) s = .next t ∧ t = completedWith .ok sent sent ∧
        (∀ d r m, s.servo.far = .faithful d r m → servoRead t.servo.regs addr = joinBytes lo hi) ∧
        (∀ k, k ≠ 2 * addr.toNat → k ≠ 2 * addr.toNat + 1 → t.servo.regs.read k = s.servo.regs.read k))

/-- `READ_REG` and `READ_MODEL` in `TX`: each cycle counts on, and the last one, `51*BIT_CYCLES` cycles after the first, enters `PRESENCE`,
where the line is released (40_transceiver.md R90, R91, R94). -/
def Obligations.ReadRegSends : Prop :=
  ∀ (s : State) (i : Instr), IsRead i → s.busy = true → s.phase = .tx → s.op = .readReg → s.txlen = 5#3 →
    (s.t ≠ s.cfg.bitCycles * 51 - 1 →
      ∃ t, exec i s = .next t ∧ KeepsServoRegs s t ∧ t = wentOn s { s with t := s.t + 1 }) ∧
    (s.t = s.cfg.bitCycles * 51 - 1 →
      ∃ t, exec i s = .next t ∧ KeepsServoRegs s t ∧ (lineDrive t).oe = false ∧
        t = wentOn s { s with phase := .presence, t := 0 })

/-- A cycle of a read request on the wire: in the last cycle the line is released, and a faithful servo starts to reply with its
register `addr` (40_transceiver.md R91, R94; 20_memory.md R57). That a frame's meaning is one cycle with the frame in `txbuf` is the model's
choice, log entry 10; that the servo takes the request at the end of that cycle is the model's reading, log entry 13. -/
def Obligations.WireReadRequestRuns : Prop :=
  ∀ (s : State) (addr : Byte), s.busy = true → s.phase = .tx → s.op = .readReg →
    let sent := { s with txbuf := ⟨0x96#8, 0x00#8, addr, 0x00#8, addr, s.txbuf.b5, s.txbuf.b6⟩, txlen := 5#3 }
    (s.t ≠ s.cfg.bitCycles * 51 - 1 →
      ∃ t, exec (.wireReadRequest addr addr) s = .next t ∧ KeepsServoRegs s t ∧
        t = wentOn sent { sent with t := s.t + 1 }) ∧
    (s.t = s.cfg.bitCycles * 51 - 1 →
      ∃ t, exec (.wireReadRequest addr addr) s = .next t ∧ KeepsServoRegs s t ∧ (lineDrive t).oe = false ∧
        t = wentOn sent { sent with phase := .presence, t := 0 } ∧
        (∀ d r m, s.servo.far = .faithful d r m →
          t.servo.reply = some ⟨0, responseFrame m addr (servoRead s.servo.regs addr)⟩))

/-! ### Receiving -/

/-- A read in `PRESENCE`: at count `PRESENCE_DELAY_CYCLES` a high sample completes it with `NoServoDetected` and a low one enters `SETTLE`;
before, the count goes on (40_transceiver.md R95). -/
def Obligations.PresenceIsSampledOnce : Prop :=
  ∀ (s : State) (i : Instr), IsRead i → s.busy = true → s.phase = .presence →
    ∃ t, exec i s = .next t ∧ KeepsServoRegs s t ∧
      t = (if s.t = s.cfg.presenceDelayCycles then
             (if s.sync2 = .H then completedWith .noServoDetected s s
              else wentOn s { s with phase := .settle, t := 0 })
           else wentOn s { s with t := s.t + 1 })

/-- A read in `SETTLE` looks at nothing: at count `SETTLE_CYCLES - 1` it opens the first window, before that the count goes on
(40_transceiver.md R96). -/
def Obligations.SettleWaits : Prop :=
  ∀ (s : State) (i : Instr), IsRead i → s.busy = true → s.phase = .settle →
    ∃ t, exec i s = .next t ∧ KeepsServoRegs s t ∧
      t = (if s.t = s.cfg.settleCycles - 1 then
             wentOn s { s with phase := .rxWait, t := 0, rxidx := 0#3, ferr := false }
           else wentOn s { s with t := s.t + 1 })

/-- A read in `RX_WAIT`: an L-then-H pair starts a byte, even in the window's last cycle; else the last cycle completes the read with
`CorruptResponse`; else the count goes on (40_transceiver.md R97; 60_exceptions.md R153). -/
def Obligations.StartEdgeOrTimeout : Prop :=
  ∀ (s : State) (i : Instr), IsRead i → s.busy = true → s.phase = .rxWait →
    ∃ t, exec i s = .next t ∧ KeepsServoRegs s t ∧
      t = (if s.sprev = .L ∧ s.sync2 = .H then wentOn s { s with phase := .rxBits, t := 1 }
           else if s.t = s.cfg.startTimeoutCycles - 1 then completedWith .corruptResponse s s
           else wentOn s { s with t := s.t + 1 })

/-- A read in `RX_BITS`: at the sample point of data bit `j` that bit of `shift` takes the sample and no other bit changes; at the stop
sample the byte is stored, a high stop bit is flagged, and the next window or the pull-up check begins; between sample points the count
goes on (40_transceiver.md R98). -/
def Obligations.BitsAreSampled : Prop :=
  ∀ (s : State) (i : Instr), IsRead i → s.busy = true → s.phase = .rxBits → 32 ≤ s.cfg.bitCycles →
    (∀ j, j ≤ 7 → s.t = s.cfg.bitCycles + s.cfg.halfCycles + j * s.cfg.bitCycles →
      ∃ t v, exec i s = .next t ∧ KeepsServoRegs s t ∧ t = wentOn s { s with shift := v, t := s.t + 1 } ∧
        ∀ k, k < 8 → v.getLsbD k = (if k = j then dataBit s.cfg s.sync2 else s.shift.getLsbD k)) ∧
    (s.t = s.cfg.bitCycles + s.cfg.halfCycles + 8 * s.cfg.bitCycles →
      ∃ t, exec i s = .next t ∧ KeepsServoRegs s t ∧
        t = (if s.rxidx = 6#3 then
               wentOn s { s with ferr := s.ferr || s.sync2 == .H, rxbuf := s.rxbuf.set s.rxidx.toNat s.shift,
                                 phase := .pullup, t := 0 }
             else
               wentOn s { s with ferr := s.ferr || s.sync2 == .H, rxbuf := s.rxbuf.set s.rxidx.toNat s.shift,
                                 phase := .rxWait, t := 0, rxidx := s.rxidx + 1#3 })) ∧
    ((∀ j, s.t ≠ s.cfg.bitCycles + s.cfg.halfCycles + j * s.cfg.bitCycles) →
      ∃ t, exec i s = .next t ∧ KeepsServoRegs s t ∧ t = wentOn s { s with t := s.t + 1 })

/-- A read in `PULLUP`: the first high sample completes it with the validation's result, and a good response goes to `RDATA`; the window's
last cycle without one completes it with `NoPullupResistor`; else the count goes on
(40_transceiver.md R100; 41_framer.md R119, R120; 42_sequencer.md R139). -/
def Obligations.PullupIsChecked : Prop :=
  ∀ (s : State) (i : Instr), IsRead i → s.busy = true → s.phase = .pullup → s.op = .readReg →
    ∃ t, exec i s = .next t ∧ KeepsServoRegs s t ∧
      t = (if s.sync2 = .H then
             (if s.rxbuf.b0 = 0x69#8 ∧ s.rxbuf.b2 = s.addr ∧ s.rxbuf.b3 = 0x02#8 ∧
                 s.rxbuf.b6 = s.rxbuf.b1 + s.rxbuf.b2 + s.rxbuf.b3 + s.rxbuf.b4 + s.rxbuf.b5 ∧ s.ferr = false
              then completedWith .ok s { s with rdata := s.rxbuf.b5 ++ s.rxbuf.b4 }
              else completedWith .corruptResponse s s)
           else if s.t = s.cfg.pullupWindowCycles - 1 then completedWith .noPullupResistor s s
           else wentOn s { s with t := s.t + 1 })

/-- A cycle with a response frame `69 m a 02 lo hi cks2` received, in `PULLUP`: when the line reads high the read completes, with `OK` and
`RDATA = {hi, lo}` where the echoed address is the requested one and no stop bit read high, with `CorruptResponse` and the old `RDATA`
otherwise; the window's last cycle without a high line completes it with `NoPullupResistor`; else the count goes on
(40_transceiver.md R100; 41_framer.md R119, R120; 30_encoding.md R79, R80). That a response's meaning is one cycle
with the frame in `rxbuf` is the model's choice, log entry 10. -/
def Obligations.WireReadResponseRuns : Prop :=
  ∀ (s : State) (m a lo hi : Byte), s.busy = true → s.phase = .pullup → s.op = .readReg →
    let c := m + a + 0x02#8 + lo + hi
    let got := { s with rxbuf := ⟨0x69#8, m, a, 0x02#8, lo, hi, c⟩ }
    ∃ t, exec (.wireReadResponse m a lo hi c) s = .next t ∧ KeepsServoRegs s t ∧
      t = (if s.sync2 = .H then
             (if a = s.addr ∧ s.ferr = false then completedWith .ok got { got with rdata := hi ++ lo }
              else completedWith .corruptResponse got got)
           else if s.t = s.cfg.pullupWindowCycles - 1 then completedWith .noPullupResistor got got
           else wentOn got { got with t := s.t + 1 })

/-- One received byte, window to stop bit, is the pure function `RxByte` of the samples: the same timeout, the same byte, the same
stop-bit flag, in the same number of cycles (40_transceiver.md R99). -/
def Obligations.ReceptionIsRxByte : Prop :=
  ∀ s : State, Runnable s → s.busy = true → s.phase = .rxWait → s.t = 0 → s.rxidx ≤ 6#3 → s.op = .readReg →
    s.servo.far = .input →
    match rxByte s.cfg (samples s) with
    | .timeout =>
      Quiet s.cfg.startTimeoutCycles s →
        ∃ t, runCycles s.cfg.startTimeoutCycles s = .next t ∧ t.busy = false ∧ t.err = 3#3 ∧ t.rxbuf = s.rxbuf
    | .byte b stopHigh edge =>
      Quiet (edge + s.cfg.samplePoint 8 + 1) s →
        ∃ t, runCycles (edge + s.cfg.samplePoint 8 + 1) s = .next t ∧ t.busy = true ∧ t.t = 0 ∧
          t.rxbuf = s.rxbuf.set s.rxidx.toNat b ∧ t.ferr = (s.ferr || stopHigh) ∧
          (s.rxidx = 6#3 → t.phase = .pullup) ∧
          (s.rxidx ≠ 6#3 → t.phase = .rxWait ∧ t.rxidx = s.rxidx + 1#3)

/-! ### The host's registers -/

/-- What the host reads: every bit of `STATUS`, the reserved ones 0, the words of `CMD`, `RDATA` and offset 0xC, and the bus's read data, which is the
addressed word in a cycle with a read and 0 in any other (10_state.md R24 to R29; 42_sequencer.md R128). -/
def Obligations.HostReadsTheFields : Prop :=
  ∀ s : State,
    (readWord s 1#2).getLsbD 0 = s.busy ∧ (readWord s 1#2).getLsbD 1 = s.done ∧
    (readWord s 1#2).extractLsb' 2 3 = s.err ∧ (readWord s 1#2).getLsbD 5 = s.attached ∧
    (readWord s 1#2).getLsbD 6 = s.ovr ∧ (∀ k, 7 ≤ k → (readWord s 1#2).getLsbD k = false) ∧
    readWord s 0#2 = 0#32 ∧ readWord s 3#2 = 0#32 ∧ (readWord s 2#2).toNat = s.rdata.toNat ∧
    ((currentInput s).busEn = true → (currentInput s).busWe = false →
      busRdata s = readWord s (currentInput s).busWord) ∧
    ((currentInput s).busEn = false ∨ (currentInput s).busWe = true → busRdata s = 0#32)

/-- A read of any register has no side effect: the cycle leaves what a cycle without an access leaves (20_memory.md R52). -/
def Obligations.BusReadHasNoSideEffect : Prop :=
  ∀ (s : State) (word : BitVec 2) (env : Level) (rest : List CycleInput),
    step { s with inputs := readInput word env :: rest } = step { s with inputs := idleInput env :: rest }

/-- A write to `RDATA` or offset 0xC has no effect (20_memory.md R52; 10_state.md R28, R29). -/
def Obligations.IgnoredWritesHaveNoEffect : Prop :=
  ∀ (s : State) (word : BitVec 2) (wdata : Word) (env : Level) (rest : List CycleInput), word = 2#2 ∨ word = 3#2 →
    step { s with inputs := writeInput word wdata env :: rest } = step { s with inputs := idleInput env :: rest }

/-- A write to `CMD` in a busy block only sets `OVR`: its word is discarded and the running command goes on, even where it completes in
that very cycle (42_sequencer.md R126). -/
def Obligations.OverrunOnlySetsOvr : Prop :=
  ∀ (s : State) (w : Word) (env : Level) (rest : List CycleInput), Runnable s → s.busy = true →
    ∃ t, step { s with inputs := idleInput env :: rest } = .next t ∧
      step { s with inputs := writeInput 0#2 w env :: rest } = .next { t with ovr := true }

/-- A write to `STATUS` changes no register of the block but `DONE` and `OVR`: bit 1 clears `DONE` unless the cycle completes a command, bit 6
clears `OVR` (10_state.md R27, R35). -/
def Obligations.StatusWriteClearsItsBits : Prop :=
  ∀ (s : State) (w : Word) (env : Level) (rest : List CycleInput), Runnable s →
    ∃ t, step { s with inputs := idleInput env :: rest } = .next t ∧
      step { s with inputs := writeInput 1#2 w env :: rest } =
        .next { t with
          done := if w.getLsbD 1 = true ∧ (phaseStep { s with inputs := idleInput env :: rest }).completed = false
                  then false else t.done
          ovr := if w.getLsbD 6 then false else t.ovr }

/-! ### Reset -/

/-- What a reset cycle leaves, whatever the state it finds (a power-on state among them, 70_reset_and_hazards.md R171) and the bus access, where the
parameters are in range: the values 10_state.md R41 gives, `STATUS = 0`, `RDATA = 0` and a released line (10_state.md R42;
70_reset_and_hazards.md R170). That a test servo does not take a frame whose last cycle is the reset cycle is the model's reading, log entry
13. That the servo's cells keep their values before an unconstrained far end is the model's choice, log entry 29. -/
def Obligations.ResetCycleLeaves : Prop :=
  ∀ s : State, s.cfg.valid = true → (currentInput s).rst = true →
    ∃ t, step s = .next t ∧ t.attached = false ∧ t.busy = false ∧ t.done = false ∧ t.err = 0#3 ∧ t.ovr = false ∧
      t.rdata = 0#16 ∧ t.phase = .idle ∧ t.t = 0 ∧ statusWord t = 0#32 ∧ rdataWord t = 0#32 ∧
      lineDrive t = ⟨false, .L⟩ ∧ t.cfg = s.cfg ∧ t.sync1 = wire s ∧ t.sync2 = s.sync1 ∧ t.sprev = s.sync2 ∧
      KeepsServoRegs s t

/-- The machine's own reset state has the values 10_state.md R41 gives, for any parameters. -/
def Obligations.ResetStateFollowsTheTable : Prop :=
  State.reset = State.resetWith (Params.ofClock 16000000 0) ∧
  ∀ p : Params, let s := State.resetWith p
    s.attached = false ∧ s.busy = false ∧ s.done = false ∧ s.err = 0#3 ∧ s.ovr = false ∧ s.rdata = 0#16 ∧
      s.phase = .idle ∧ s.t = 0 ∧ lineDrive s = ⟨false, .L⟩ ∧ s.cfg = p

/-! ### The framer -/

/-- The checksum is the sum of the bytes reduced modulo 256; equivalently an 8-bit accumulator that starts at 0, adds each byte and drops
every carry; the order of the bytes does not matter and a zero byte adds nothing (41_framer.md R110). -/
def Obligations.ChecksumIsAnAccumulator : Prop :=
  (∀ bs : List Byte, (cks bs).toNat = (bs.map BitVec.toNat).sum % 256) ∧
  (∀ bs : List Byte, cks bs = bs.foldl (fun acc b => acc + b) 0#8) ∧
  (∀ bs cs : List Byte, bs.Perm cs → cks bs = cks cs) ∧
  (∀ bs : List Byte, cks (0x00#8 :: bs) = cks bs)

/-- The checksum byte of a read request always equals the address (30_encoding.md R78; 41_framer.md R113). -/
def Obligations.ReadRequestChecksumIsTheAddress : Prop := ∀ addr : Byte, readRequestCks addr = addr

/-- Validation detects every change of exactly one byte of a valid response. It takes any change of the other bytes that keeps their sum, such as
+1 in the low byte with -1 in the high byte, unless the change hits byte 2 or byte 3 (41_framer.md R122). -/
def Obligations.ValidationDetectsOneByte : Prop :=
  ∀ (f : FrameBuf) (addr : Byte), validateFrame f addr false = .ok →
    (∀ (k : Nat) (b : Byte), k < 7 → b ≠ f.get k → validateFrame (f.set k b) addr false = .corruptResponse) ∧
    validateFrame { f with b4 := f.b4 + 1#8, b5 := f.b5 - 1#8 } addr false = .ok ∧
    (∀ g : FrameBuf, g.b0 = f.b0 → g.b6 = f.b6 → g.b1 + g.b2 + g.b3 + g.b4 + g.b5 = f.b1 + f.b2 + f.b3 + f.b4 + f.b5 →
      validateFrame g addr false = if g.b2 = f.b2 ∧ g.b3 = f.b3 then .ok else .corruptResponse)

/-- A servo register written over the wire reads back, and no other register changes (20_memory.md R53, R54, R56). -/
def Obligations.ServoRegisterReadsBack : Prop :=
  ∀ (m : Memory) (a b : Byte) (v : Half), m.wf = true →
    servoRead (servoWrite m a v) b = (if b = a then v else servoRead m b)

/-! ### The line -/

/-- The line driver in each phase (40_transceiver.md R90). -/
def Obligations.LineDriverFollowsThePhase : Prop :=
  ∀ s : State,
    (s.phase = .idle ∨ s.phase = .exec → lineDrive s = ⟨s.attached, .L⟩) ∧
    (s.phase = .tx → lineDrive s = ⟨true, txLevel s.cfg s.txbuf s.t⟩) ∧
    (s.phase = .presence ∨ s.phase = .settle ∨ s.phase = .rxWait ∨ s.phase = .rxBits ∨ s.phase = .pullup →
      lineDrive s = ⟨false, .L⟩)

/-- The waveform of a frame: one bit period of L, then each byte's start bit H, its data bits LSB first, a 1 as L where data is inverted,
and its stop bit L, every bit period exactly `BIT_CYCLES` cycles (40_transceiver.md R91, R93; 30_encoding.md R76). -/
def Obligations.FrameWaveform : Prop :=
  ∀ (p : Params) (f : FrameBuf) (x : Nat), x < p.bitCycles →
    txLevel p f x = .L ∧
    ∀ k, txLevel p f (p.bitCycles * (1 + 10 * k) + x) = .H ∧
      (∀ j, j < 8 → txLevel p f (p.bitCycles * (1 + 10 * k + 1 + j) + x) =
        (if p.dataInverted = (f.get k).getLsbD j then .L else .H)) ∧
      txLevel p f (p.bitCycles * (1 + 10 * k + 9) + x) = .L

/-- The wire has the block's own level wherever the block drives it, and Env(c) wherever it does not; Env(c) is the cycle's input, and H before an
absent servo; every cycle, a reset cycle too, takes the wire into the synchroniser (10_state.md R36; 20_memory.md R58). -/
def Obligations.WireIsResolved : Prop :=
  ∀ s : State,
    (s.phase = .tx → wire s = txLevel s.cfg s.txbuf s.t) ∧
    ((s.phase = .idle ∨ s.phase = .exec) → wire s = if s.attached = true then .L else envLevel s) ∧
    (s.phase = .presence ∨ s.phase = .settle ∨ s.phase = .rxWait ∨ s.phase = .rxBits ∨ s.phase = .pullup →
      wire s = envLevel s) ∧
    (s.servo.far = .input → envLevel s = (currentInput s).env) ∧
    (s.servo.far = .absent → envLevel s = .H) ∧
    (∀ t, step s = .next t → t.sync1 = wire s ∧ t.sync2 = s.sync1 ∧ t.sprev = s.sync2)

/-- The line while a test servo replies: L until `d` cycles into the first window, then seven characters without a lead-in, every slot exactly
`BIT_CYCLES` cycles, and after them H from `r` cycles on, or L for ever where there is no pull-up (20_memory.md R57, R59). The level L of those
`r` cycles is the model's reading, log entry 14. -/
def Obligations.ServoReplyWaveform : Prop :=
  ∀ (s : State) (d : Nat) (m : Byte) (reply : Reply), s.servo.reply = some reply →
    let w := s.cfg.presenceDelayCycles + 1 + s.cfg.settleCycles + d
    let B := s.cfg.bitCycles
    ((∃ r, s.servo.far = .faithful d r m) ∨ s.servo.far = .noPullup d m →
      (reply.since < w → envLevel s = .L) ∧
      ∀ k x, k < 7 → x < B →
        (reply.since = w + B * (10 * k) + x → envLevel s = .H) ∧
        (∀ j, j < 8 → reply.since = w + B * (10 * k + 1 + j) + x →
          envLevel s = if s.cfg.dataInverted = (reply.bytes.get k).getLsbD j then .L else .H) ∧
        (reply.since = w + B * (10 * k + 9) + x → envLevel s = .L)) ∧
    (∀ r, s.servo.far = .faithful d r m → w + 70 * B ≤ reply.since →
      envLevel s = if reply.since < w + 70 * B + r then .L else .H) ∧
    (s.servo.far = .noPullup d m → w + 70 * B ≤ reply.since → envLevel s = .L)

/-! ### Rules of the whole machine -/

/-- The invariant holds right after reset, for any parameters in range. -/
def Obligations.InvariantHoldsAtReset : Prop :=
  Inv State.reset ∧ ∀ p : Params, p.valid = true → Inv (State.resetWith p)

/-- Every step keeps the invariant (10_state.md R21, R22, R30 to R32; 42_sequencer.md R125 to R139; 60_exceptions.md R150). -/
def Obligations.StepKeepsInvariant : Prop :=
  ∀ s t : State, Inv s → step s = .next t → Inv t

/-- `ATTACHED` is 0 after a reset cycle, becomes 1 where `ATTACH` completes and 0 where `DETACH` completes, and no other cycle changes it
(10_state.md R33). -/
def Obligations.AttachedFollowsAttachAndDetach : Prop :=
  ∀ s t : State, step s = .next t →
    t.attached =
      if (currentInput s).rst then false
      else if s.phase = .exec ∧ s.op = .attach then true
      else if s.phase = .exec ∧ s.op = .detach then false
      else s.attached

/-- The status bits change by their own events only: `BUSY` by acceptance, completion and reset; `DONE` by acceptance, completion, a write to
`STATUS` with bit 1 (which a completion wins over) and reset; `ERR` by acceptance, completion and reset; `OVR` by a write to `CMD` of a busy
block, a write to `STATUS` with bit 6 and reset (10_state.md R30, R31, R32, R34, R35). -/
def Obligations.StatusBitsFollowTheirEvents : Prop :=
  ∀ s t : State, Inv s → step s = .next t →
    let x := currentInput s
    let writesStatus := x.busEn = true ∧ x.busWe = true ∧ x.busWord = 1#2
    let accepted := x.busEn = true ∧ x.busWe = true ∧ x.busWord = 0#2 ∧ s.busy = false
    if x.rst = true then t.busy = false ∧ t.done = false ∧ t.err = 0#3 ∧ t.ovr = false
    else
      t.busy = (if (resultNow s).isSome then false else if accepted then true else s.busy) ∧
      t.done = (if (resultNow s).isSome then true else if accepted then false
        else if writesStatus ∧ x.busWdata.getLsbD 1 = true then false else s.done) ∧
      t.err = (match resultNow s with
        | some code => code.code
        | none => if accepted then 0#3 else s.err) ∧
      t.ovr = (if x.busEn = true ∧ x.busWe = true ∧ x.busWord = 0#2 ∧ s.busy = true then true
        else if writesStatus ∧ x.busWdata.getLsbD 6 = true then false else s.ovr)

/-- `RDATA` takes the received value in the cycle in which a `READ_REG` completes with `ERR = 0`, is 0 after a reset cycle, and no other
cycle changes it, whatever the host writes; its upper half reads 0 (10_state.md R28). -/
def Obligations.RdataFollowsGoodReads : Prop :=
  (∀ s : State, (readWord s 2#2).toNat = s.rdata.toNat) ∧
  ∀ s t : State, step s = .next t →
    if (currentInput s).rst then t.rdata = 0#16
    else if s.phase = .pullup ∧ s.op = .readReg ∧ s.sync2 = .H ∧ validate s = .ok then
      t.err = 0#3 ∧ t.rdata.toNat = s.rxbuf.b4.toNat ||| (s.rxbuf.b5.toNat <<< 8)
    else t.rdata = s.rdata

/-- Every accepted command returns to `IDLE` within the maximum number of busy cycles (10_state.md R22;
70_reset_and_hazards.md R182). -/
def Obligations.EveryCommandCompletes : Prop :=
  ∀ s : State, Inv s → s.busy = true → Quiet s.cfg.maxBusyCycles s →
    ∃ n t, n ≤ s.cfg.maxBusyCycles ∧ runCycles n s = .next t ∧ t.busy = false ∧ t.done = true ∧ t.phase = .idle

/-- An attached `WRITE_REG` is busy for exactly `71*BIT_CYCLES` cycles, drives its whole frame bit by bit, and completes with `OK`;
`RDATA` and the attachment are unchanged (42_sequencer.md R133; 40_transceiver.md R91; 70_reset_and_hazards.md R182). -/
def Obligations.WriteRegSendsItsFrame : Prop :=
  ∀ (s : State) (addr : Byte) (value : Half), Inv s → s.attached = true → s.busy = false →
    fetch s = some (.writeReg addr value) → Quiet (71 * s.cfg.bitCycles + 1) s →
    (∀ n, n < 71 * s.cfg.bitCycles →
      ∃ t, runCycles (n + 1) s = .next t ∧ t.busy = true ∧
        lineDrive t = ⟨true, txLevel s.cfg (writeFrame addr value) n⟩) ∧
    ∃ t, runCycles (71 * s.cfg.bitCycles + 1) s = .next t ∧ t.busy = false ∧ t.done = true ∧ t.err = 0#3 ∧
      t.rdata = s.rdata ∧ t.attached = true

/-- Against a faithful servo, an attached `WRITE_REG` leaves its value in the servo's register and no other register changed
(20_memory.md R56). That the servo holds the value in the very cycle after the write completes is the model's reading, log entry 13:
20_memory.md R64 says that whether and when a servo applies a write is its own affair. -/
def Obligations.WriteRegReachesTheServo : Prop :=
  ∀ (s : State) (addr b : Byte) (value : Half) (d r : Nat) (m : Byte), Inv s → s.attached = true → s.busy = false →
    fetch s = some (.writeReg addr value) → Quiet (71 * s.cfg.bitCycles + 1) s → s.servo.far = .faithful d r m →
    ∃ t, runCycles (71 * s.cfg.bitCycles + 1) s = .next t ∧ t.busy = false ∧ t.err = 0#3 ∧
      servoRead t.servo.regs b = (if b = addr then value else servoRead s.servo.regs b)

/-- With no servo, an attached read is busy for exactly `51*BIT_CYCLES + PRESENCE_DELAY_CYCLES + 1` cycles and completes with
`NoServoDetected`; `RDATA` is kept (40_transceiver.md R95; 70_reset_and_hazards.md R182). -/
def Obligations.AbsentServoIsDetected : Prop :=
  ∀ (s : State) (i : Instr), Inv s → s.attached = true → s.busy = false → IsRead i → fetch s = some i →
    Quiet (51 * s.cfg.bitCycles + s.cfg.presenceDelayCycles + 2) s → s.servo.far = .absent →
    (∀ n, n < 51 * s.cfg.bitCycles + s.cfg.presenceDelayCycles + 1 →
      ∃ t, runCycles (n + 1) s = .next t ∧ t.busy = true) ∧
    ∃ t, runCycles (51 * s.cfg.bitCycles + s.cfg.presenceDelayCycles + 2) s = .next t ∧ t.busy = false ∧ t.done = true ∧
      t.err = 1#3 ∧ t.rdata = s.rdata ∧ t.attached = true

/-- Against a faithful servo whose timing meets the block's windows, an attached `READ_REG` or `READ_MODEL` completes with `OK`, `RDATA`
holds the servo's register, and the command took `121*BIT_CYCLES + PRESENCE_DELAY_CYCLES + SETTLE_CYCLES + d + r + 4` busy cycles
(20_memory.md R57; 42_sequencer.md R134; 70_reset_and_hazards.md R182). The windows' own conditions on a servo are spelled out,
since the parameters are independent (log entry 21).
That the servo takes the request at the end of the last `TX` cycle is log entry 13. -/
def Obligations.FaithfulReadReturnsTheRegister : Prop :=
  ∀ (s : State) (i : Instr) (addr : Byte) (d r : Nat) (m : Byte),
    ((∃ value, i = .readReg addr value) ∨ (i = .readModel ∧ addr = 0x00#8)) → Inv s → s.attached = true → s.busy = false →
    fetch s = some i → s.servo.far = .faithful d r m →
    d + 3 ≤ s.cfg.startTimeoutCycles → s.cfg.bitCycles ≤ s.cfg.startTimeoutCycles + s.cfg.halfCycles →
    r + s.cfg.bitCycles ≤ s.cfg.pullupWindowCycles + s.cfg.halfCycles →
    let n := 121 * s.cfg.bitCycles + s.cfg.presenceDelayCycles + s.cfg.settleCycles + d + r + 4
    Quiet (n + 1) s →
    (∀ k, k < n → ∃ u, runCycles (k + 1) s = .next u ∧ u.busy = true) ∧
    ∃ t, runCycles (n + 1) s = .next t ∧ t.busy = false ∧ t.done = true ∧ t.err = 0#3 ∧
      t.rdata = servoRead s.servo.regs addr ∧ t.attached = true

/-- Against a servo without pull-up whose latency meets the block's window, an attached read is busy for exactly
`120*BIT_CYCLES + PRESENCE_DELAY_CYCLES + SETTLE_CYCLES + HALF_CYCLES + PULLUP_WINDOW_CYCLES + 4 + d` cycles and completes with
`NoPullupResistor`; `RDATA` is kept (20_memory.md R59; 70_reset_and_hazards.md R182; log entry 21).
That the servo takes the request at the end of the last `TX` cycle is log entry 13. -/
def Obligations.MissingPullupIsDetected : Prop :=
  ∀ (s : State) (i : Instr) (d : Nat) (m : Byte), IsRead i → Inv s → s.attached = true → s.busy = false →
    fetch s = some i → s.servo.far = .noPullup d m →
    d + 3 ≤ s.cfg.startTimeoutCycles → s.cfg.bitCycles ≤ s.cfg.startTimeoutCycles + s.cfg.halfCycles →
    let n := 120 * s.cfg.bitCycles + s.cfg.presenceDelayCycles + s.cfg.settleCycles + s.cfg.halfCycles +
      s.cfg.pullupWindowCycles + 4 + d
    Quiet (n + 1) s →
    (∀ k, k < n → ∃ u, runCycles (k + 1) s = .next u ∧ u.busy = true) ∧
    ∃ t, runCycles (n + 1) s = .next t ∧ t.busy = false ∧ t.done = true ∧ t.err = 2#3 ∧ t.rdata = s.rdata ∧
      t.attached = true

/-- The round-trip law: against a faithful servo, `WRITE_REG a, v` completes with `ERR = 0`, and a `READ_REG a` accepted any number of cycles later, with
any accesses, commands and resets between but no other `WRITE_REG` to `a`, completes with `ERR = 0` and `RDATA = v` (20_memory.md R60). The host's
accesses during both commands are any. The servo's timing must meet the block's windows: these hypotheses are log entry 21, since the parameters
are independent; that the servo holds the value when the write completes is log entry 13. -/
def Obligations.RoundTripLaw : Prop :=
  ∀ (s : State) (a : Byte) (v : Half) (d r : Nat) (m : Byte), Inv s → s.attached = true → s.busy = false →
    fetch s = some (.writeReg a v) → Quiet (71 * s.cfg.bitCycles + 1) s → s.servo.far = .faithful d r m →
    d + 3 ≤ s.cfg.startTimeoutCycles → s.cfg.bitCycles ≤ s.cfg.startTimeoutCycles + s.cfg.halfCycles →
    r + s.cfg.bitCycles ≤ s.cfg.pullupWindowCycles + s.cfg.halfCycles →
    let n := 121 * s.cfg.bitCycles + s.cfg.presenceDelayCycles + s.cfg.settleCycles + d + r + 4
    ∃ t, runCycles (71 * s.cfg.bitCycles + 1) s = .next t ∧ t.busy = false ∧ t.err = 0#3 ∧
      ∀ (inputs : List CycleInput) (gap : Nat) (u : State) (i : Instr), NoWriteTo a gap { t with inputs := inputs } →
        runCycles gap { t with inputs := inputs } = .next u → u.busy = false → u.attached = true →
        ((∃ value, i = .readReg a value) ∨ (i = .readModel ∧ a = 0x00#8)) → fetch u = some i → Quiet (n + 1) u →
        ∃ x, runCycles (n + 1) u = .next x ∧ x.busy = false ∧ x.err = 0#3 ∧ x.rdata = v

/-- Nothing the host does on the bus affects a running command: two states that differ only in `DONE`, `OVR` and the host's accesses
still do so after any number of cycles in which the command runs on (70_reset_and_hazards.md R185; 40_transceiver.md R102). -/
def Obligations.HostCannotDisturbACommand : Prop :=
  ∀ (n : Nat) (s s' t : State), AgreeButBus s s' →
    (∀ k, k < n → ∃ u, runCycles k s = .next u ∧ u.busy = true) → runCycles n s = .next t →
    ∃ t', runCycles n s' = .next t' ∧ AgreeButBus t t'
end

