-- ==== Sys2Proof/Laws/Memory.lean ====
section
/-!
SUPPORT. The laws of the servo's register memory: a read after a write, and every operation keeps the canonical form.
-/

namespace Sys2Proof.Machine

@[simp] theorem Memory.read_nil (k : Nat) : Memory.read [] k = Memory.unlisted := rfl

theorem Memory.read_cons (a : Nat) (b : Byte) (m : Memory) (k : Nat) :
    Memory.read ((a, b) :: m) k = if a = k then b else Memory.read m k := rfl

/-- A canonical memory lists nothing below its bound. -/
theorem Memory.read_below {lo : Nat} {m : Memory} (h : Memory.wfFrom lo m = true) {k : Nat} (hk : k < lo) :
    Memory.read m k = Memory.unlisted := by
  induction m generalizing lo with
  | nil => rfl
  | cons c rest ih =>
    obtain ⟨a, b⟩ := c
    simp only [Memory.wfFrom, Bool.and_eq_true, decide_eq_true_eq] at h
    have hne : ¬a = k := by omega
    simp only [Memory.read_cons, if_neg hne]
    exact ih h.2 (by omega)

theorem Memory.wfFrom_mono {lo lo' : Nat} {m : Memory} (h : Memory.wfFrom lo m = true) (hl : lo' ≤ lo) :
    Memory.wfFrom lo' m = true := by
  cases m with
  | nil => rfl
  | cons c rest =>
    obtain ⟨a, b⟩ := c
    simp only [Memory.wfFrom, Bool.and_eq_true, decide_eq_true_eq] at h ⊢
    exact ⟨⟨by omega, h.1.2⟩, h.2⟩

/-- Reading any other byte than the one listed first. -/
theorem Memory.read_cons_other (k : Nat) (b : Byte) (m : Memory) {j : Nat} (hj : j ≠ k) :
    Memory.read (Memory.cons k b m) j = Memory.read m j := by
  unfold Memory.cons
  split
  · rfl
  · simp only [Memory.read_cons, if_neg (Ne.symm hj)]

/-- A write leaves every other byte alone. -/
theorem Memory.read_write_other (m : Memory) (k : Nat) (b : Byte) {j : Nat} (hj : j ≠ k) :
    Memory.read (Memory.write m k b) j = Memory.read m j := by
  induction m with
  | nil => exact Memory.read_cons_other k b [] hj
  | cons c rest ih =>
    obtain ⟨a, x⟩ := c
    simp only [Memory.write]
    split
    · exact Memory.read_cons_other k b _ hj
    · split
      · next _ h => subst h; rw [Memory.read_cons_other _ b rest hj, Memory.read_cons, if_neg (Ne.symm hj)]
      · simp only [Memory.read_cons, ih]

theorem Memory.read_cons_same {k lo : Nat} (b : Byte) {m : Memory} (h : Memory.wfFrom lo m = true) (hk : k < lo) :
    Memory.read (Memory.cons k b m) k = b := by
  unfold Memory.cons
  split
  · next hb => rw [Memory.read_below h hk, hb]
  · simp [Memory.read_cons]

/-- A read after a write gives the value written. -/
theorem Memory.read_write_same {lo : Nat} {m : Memory} (k : Nat) (b : Byte) (h : Memory.wfFrom lo m = true) :
    Memory.read (Memory.write m k b) k = b := by
  induction m generalizing lo with
  | nil => exact Memory.read_cons_same (lo := k + 1) b rfl (by omega)
  | cons c rest ih =>
    obtain ⟨a, x⟩ := c
    simp only [Memory.wfFrom, Bool.and_eq_true, decide_eq_true_eq] at h
    simp only [Memory.write]
    split
    · next hlt =>
      refine Memory.read_cons_same (lo := a) b ?_ hlt
      simp only [Memory.wfFrom, Bool.and_eq_true, decide_eq_true_eq]
      exact ⟨⟨Nat.le_refl a, h.1.2⟩, h.2⟩
    · split
      · next _ heq => exact Memory.read_cons_same b h.2 (by omega)
      · next _ hne => simp only [Memory.read_cons, if_neg (Ne.symm hne)]; exact ih h.2

theorem Memory.cons_keeps_wfFrom {lo k : Nat} (b : Byte) {m : Memory} (hk : lo ≤ k) (h : Memory.wfFrom (k + 1) m = true) :
    Memory.wfFrom lo (Memory.cons k b m) = true := by
  unfold Memory.cons
  split
  · exact Memory.wfFrom_mono h (by omega)
  · next hb => simp [Memory.wfFrom, hk, hb, h]

/-- A write keeps the canonical form. -/
theorem Memory.write_keeps_wfFrom {lo : Nat} {m : Memory} (k : Nat) (b : Byte) (hk : lo ≤ k) (h : Memory.wfFrom lo m = true) :
    Memory.wfFrom lo (Memory.write m k b) = true := by
  induction m generalizing lo with
  | nil => exact Memory.cons_keeps_wfFrom b hk rfl
  | cons c rest ih =>
    obtain ⟨a, x⟩ := c
    have h' := h
    simp only [Memory.wfFrom, Bool.and_eq_true, decide_eq_true_eq] at h
    simp only [Memory.write]
    split
    · next hlt =>
      refine Memory.cons_keeps_wfFrom b hk ?_
      simp only [Memory.wfFrom, Bool.and_eq_true, decide_eq_true_eq]
      exact ⟨⟨by omega, h.1.2⟩, h.2⟩
    · split
      · next _ heq => subst heq; exact Memory.cons_keeps_wfFrom b hk h.2
      · next hlt hne =>
        simp only [Memory.wfFrom, Bool.and_eq_true, decide_eq_true_eq]
        exact ⟨h.1, ih (by omega) h.2⟩

/-- A write lists no address but those listed and its own. -/
theorem Memory.write_keeps_bound {n : Nat} {m : Memory} (k : Nat) (b : Byte) (hk : k < n)
    (h : m.all (fun c => decide (c.1 < n)) = true) : (Memory.write m k b).all (fun c => decide (c.1 < n)) = true := by
  have hcons : ∀ m' : Memory, m'.all (fun c => decide (c.1 < n)) = true →
      (Memory.cons k b m').all (fun c => decide (c.1 < n)) = true := by
    intro m' hm
    unfold Memory.cons
    split
    · exact hm
    · simp only [List.all_cons, Bool.and_eq_true, decide_eq_true_eq]; exact ⟨hk, hm⟩
  induction m with
  | nil => exact hcons [] rfl
  | cons c rest ih =>
    obtain ⟨a, x⟩ := c
    have h' := h
    simp only [List.all_cons, Bool.and_eq_true, decide_eq_true_eq] at h
    simp only [Memory.write]
    split
    · exact hcons _ h'
    · split
      · exact hcons _ h.2
      · simp only [List.all_cons, Bool.and_eq_true, decide_eq_true_eq]; exact ⟨h.1, ih h.2⟩

theorem Memory.write_keeps_wf {m : Memory} (k : Nat) (b : Byte) (hk : k < 512) (h : m.wf = true) :
    Memory.wf (Memory.write m k b) = true := by
  simp only [Memory.wf, Bool.and_eq_true] at h ⊢
  exact ⟨Memory.write_keeps_wfFrom k b (by omega) h.1, Memory.write_keeps_bound k b hk h.2⟩

/-- Writing a servo register keeps the canonical form. -/
theorem servoWrite_keeps_wf {m : Memory} (a : Byte) (v : Half) (h : m.wf = true) : (servoWrite m a v).wf = true := by
  have ha : a.toNat < 256 := a.isLt
  exact Memory.write_keeps_wf _ _ (by omega) (Memory.write_keeps_wf _ _ (by omega) h)

/-- The memory at reset is in canonical form. -/
theorem reset_memory_wf (cfg : Params) : (State.resetWith cfg).servo.regs.wf = true := rfl

end Sys2Proof.Machine
end

