-- ==== Sys2Proof/Laws/State.lean ====
section
/-!
SUPPORT. One lemma for each field of each shared update of the state, so that no later proof unfolds a record update.
-/

namespace Sys2Proof.Machine

/-! ### The fields after `endOfCycle` -/

@[simp] theorem endOfCycle_cfg (s n : State) : (endOfCycle s n).cfg = n.cfg := rfl
@[simp] theorem endOfCycle_attached (s n : State) : (endOfCycle s n).attached = n.attached := rfl
@[simp] theorem endOfCycle_busy (s n : State) : (endOfCycle s n).busy = n.busy := rfl
@[simp] theorem endOfCycle_done (s n : State) : (endOfCycle s n).done = n.done := rfl
@[simp] theorem endOfCycle_err (s n : State) : (endOfCycle s n).err = n.err := rfl
@[simp] theorem endOfCycle_ovr (s n : State) : (endOfCycle s n).ovr = n.ovr := rfl
@[simp] theorem endOfCycle_rdata (s n : State) : (endOfCycle s n).rdata = n.rdata := rfl
@[simp] theorem endOfCycle_phase (s n : State) : (endOfCycle s n).phase = n.phase := rfl
@[simp] theorem endOfCycle_op (s n : State) : (endOfCycle s n).op = n.op := rfl
@[simp] theorem endOfCycle_addr (s n : State) : (endOfCycle s n).addr = n.addr := rfl
@[simp] theorem endOfCycle_value (s n : State) : (endOfCycle s n).value = n.value := rfl
@[simp] theorem endOfCycle_txbuf (s n : State) : (endOfCycle s n).txbuf = n.txbuf := rfl
@[simp] theorem endOfCycle_txlen (s n : State) : (endOfCycle s n).txlen = n.txlen := rfl
@[simp] theorem endOfCycle_t (s n : State) : (endOfCycle s n).t = n.t := rfl
@[simp] theorem endOfCycle_rxidx (s n : State) : (endOfCycle s n).rxidx = n.rxidx := rfl
@[simp] theorem endOfCycle_shift (s n : State) : (endOfCycle s n).shift = n.shift := rfl
@[simp] theorem endOfCycle_rxbuf (s n : State) : (endOfCycle s n).rxbuf = n.rxbuf := rfl
@[simp] theorem endOfCycle_ferr (s n : State) : (endOfCycle s n).ferr = n.ferr := rfl
@[simp] theorem endOfCycle_sync1 (s n : State) : (endOfCycle s n).sync1 = wire s := rfl
@[simp] theorem endOfCycle_sync2 (s n : State) : (endOfCycle s n).sync2 = s.sync1 := rfl
@[simp] theorem endOfCycle_sprev (s n : State) : (endOfCycle s n).sprev = s.sync2 := rfl
@[simp] theorem endOfCycle_servo (s n : State) : (endOfCycle s n).servo = servoNext s := rfl
@[simp] theorem endOfCycle_inputs (s n : State) : (endOfCycle s n).inputs = s.inputs.tail := rfl
@[simp] theorem endOfCycle_cycle (s n : State) : (endOfCycle s n).cycle = s.cycle + 1 := rfl

/-! ### The fields after `complete` -/

@[simp] theorem complete_cfg (code : ResultCode) (s : State) : ((complete code s).next).cfg = s.cfg := rfl
@[simp] theorem complete_attached (code : ResultCode) (s : State) : ((complete code s).next).attached = s.attached := rfl
@[simp] theorem complete_busy (code : ResultCode) (s : State) : ((complete code s).next).busy = false := rfl
@[simp] theorem complete_done (code : ResultCode) (s : State) : ((complete code s).next).done = true := rfl
@[simp] theorem complete_err (code : ResultCode) (s : State) : ((complete code s).next).err = code.code := rfl
@[simp] theorem complete_ovr (code : ResultCode) (s : State) : ((complete code s).next).ovr = s.ovr := rfl
@[simp] theorem complete_rdata (code : ResultCode) (s : State) : ((complete code s).next).rdata = if s.op = .readReg ∧ code = .ok then responseValue s.rxbuf else s.rdata := rfl
@[simp] theorem complete_phase (code : ResultCode) (s : State) : ((complete code s).next).phase = .idle := rfl
@[simp] theorem complete_op (code : ResultCode) (s : State) : ((complete code s).next).op = s.op := rfl
@[simp] theorem complete_addr (code : ResultCode) (s : State) : ((complete code s).next).addr = s.addr := rfl
@[simp] theorem complete_value (code : ResultCode) (s : State) : ((complete code s).next).value = s.value := rfl
@[simp] theorem complete_txbuf (code : ResultCode) (s : State) : ((complete code s).next).txbuf = s.txbuf := rfl
@[simp] theorem complete_txlen (code : ResultCode) (s : State) : ((complete code s).next).txlen = s.txlen := rfl
@[simp] theorem complete_t (code : ResultCode) (s : State) : ((complete code s).next).t = 0 := rfl
@[simp] theorem complete_rxidx (code : ResultCode) (s : State) : ((complete code s).next).rxidx = s.rxidx := rfl
@[simp] theorem complete_shift (code : ResultCode) (s : State) : ((complete code s).next).shift = s.shift := rfl
@[simp] theorem complete_rxbuf (code : ResultCode) (s : State) : ((complete code s).next).rxbuf = s.rxbuf := rfl
@[simp] theorem complete_ferr (code : ResultCode) (s : State) : ((complete code s).next).ferr = s.ferr := rfl
@[simp] theorem complete_sync1 (code : ResultCode) (s : State) : ((complete code s).next).sync1 = s.sync1 := rfl
@[simp] theorem complete_sync2 (code : ResultCode) (s : State) : ((complete code s).next).sync2 = s.sync2 := rfl
@[simp] theorem complete_sprev (code : ResultCode) (s : State) : ((complete code s).next).sprev = s.sprev := rfl
@[simp] theorem complete_servo (code : ResultCode) (s : State) : ((complete code s).next).servo = s.servo := rfl
@[simp] theorem complete_inputs (code : ResultCode) (s : State) : ((complete code s).next).inputs = s.inputs := rfl
@[simp] theorem complete_cycle (code : ResultCode) (s : State) : ((complete code s).next).cycle = s.cycle := rfl

/-! ### The fields after `tick` -/

@[simp] theorem tick_cfg (s : State) : (tick s).cfg = s.cfg := rfl
@[simp] theorem tick_attached (s : State) : (tick s).attached = s.attached := rfl
@[simp] theorem tick_busy (s : State) : (tick s).busy = s.busy := rfl
@[simp] theorem tick_done (s : State) : (tick s).done = s.done := rfl
@[simp] theorem tick_err (s : State) : (tick s).err = s.err := rfl
@[simp] theorem tick_ovr (s : State) : (tick s).ovr = s.ovr := rfl
@[simp] theorem tick_rdata (s : State) : (tick s).rdata = s.rdata := rfl
@[simp] theorem tick_phase (s : State) : (tick s).phase = s.phase := rfl
@[simp] theorem tick_op (s : State) : (tick s).op = s.op := rfl
@[simp] theorem tick_addr (s : State) : (tick s).addr = s.addr := rfl
@[simp] theorem tick_value (s : State) : (tick s).value = s.value := rfl
@[simp] theorem tick_txbuf (s : State) : (tick s).txbuf = s.txbuf := rfl
@[simp] theorem tick_txlen (s : State) : (tick s).txlen = s.txlen := rfl
@[simp] theorem tick_t (s : State) : (tick s).t = s.t + 1 := rfl
@[simp] theorem tick_rxidx (s : State) : (tick s).rxidx = s.rxidx := rfl
@[simp] theorem tick_shift (s : State) : (tick s).shift = s.shift := rfl
@[simp] theorem tick_rxbuf (s : State) : (tick s).rxbuf = s.rxbuf := rfl
@[simp] theorem tick_ferr (s : State) : (tick s).ferr = s.ferr := rfl
@[simp] theorem tick_sync1 (s : State) : (tick s).sync1 = s.sync1 := rfl
@[simp] theorem tick_sync2 (s : State) : (tick s).sync2 = s.sync2 := rfl
@[simp] theorem tick_sprev (s : State) : (tick s).sprev = s.sprev := rfl
@[simp] theorem tick_servo (s : State) : (tick s).servo = s.servo := rfl
@[simp] theorem tick_inputs (s : State) : (tick s).inputs = s.inputs := rfl
@[simp] theorem tick_cycle (s : State) : (tick s).cycle = s.cycle := rfl

/-! ### The fields after `latchCommand` -/

@[simp] theorem latchCommand_cfg (op : Op) (addr : Byte) (value : Half) (n : State) : (latchCommand op addr value n).cfg = n.cfg := rfl
@[simp] theorem latchCommand_attached (op : Op) (addr : Byte) (value : Half) (n : State) : (latchCommand op addr value n).attached = n.attached := rfl
@[simp] theorem latchCommand_busy (op : Op) (addr : Byte) (value : Half) (n : State) : (latchCommand op addr value n).busy = true := rfl
@[simp] theorem latchCommand_done (op : Op) (addr : Byte) (value : Half) (n : State) : (latchCommand op addr value n).done = false := rfl
@[simp] theorem latchCommand_err (op : Op) (addr : Byte) (value : Half) (n : State) : (latchCommand op addr value n).err = 0#3 := rfl
@[simp] theorem latchCommand_ovr (op : Op) (addr : Byte) (value : Half) (n : State) : (latchCommand op addr value n).ovr = n.ovr := rfl
@[simp] theorem latchCommand_rdata (op : Op) (addr : Byte) (value : Half) (n : State) : (latchCommand op addr value n).rdata = n.rdata := rfl
@[simp] theorem latchCommand_phase (op : Op) (addr : Byte) (value : Half) (n : State) : (latchCommand op addr value n).phase = n.phase := rfl
@[simp] theorem latchCommand_op (op : Op) (addr : Byte) (value : Half) (n : State) : (latchCommand op addr value n).op = op := rfl
@[simp] theorem latchCommand_addr (op : Op) (addr : Byte) (value : Half) (n : State) : (latchCommand op addr value n).addr = addr := rfl
@[simp] theorem latchCommand_value (op : Op) (addr : Byte) (value : Half) (n : State) : (latchCommand op addr value n).value = value := rfl
@[simp] theorem latchCommand_txbuf (op : Op) (addr : Byte) (value : Half) (n : State) : (latchCommand op addr value n).txbuf = n.txbuf := rfl
@[simp] theorem latchCommand_txlen (op : Op) (addr : Byte) (value : Half) (n : State) : (latchCommand op addr value n).txlen = n.txlen := rfl
@[simp] theorem latchCommand_t (op : Op) (addr : Byte) (value : Half) (n : State) : (latchCommand op addr value n).t = n.t := rfl
@[simp] theorem latchCommand_rxidx (op : Op) (addr : Byte) (value : Half) (n : State) : (latchCommand op addr value n).rxidx = n.rxidx := rfl
@[simp] theorem latchCommand_shift (op : Op) (addr : Byte) (value : Half) (n : State) : (latchCommand op addr value n).shift = n.shift := rfl
@[simp] theorem latchCommand_rxbuf (op : Op) (addr : Byte) (value : Half) (n : State) : (latchCommand op addr value n).rxbuf = n.rxbuf := rfl
@[simp] theorem latchCommand_ferr (op : Op) (addr : Byte) (value : Half) (n : State) : (latchCommand op addr value n).ferr = n.ferr := rfl
@[simp] theorem latchCommand_sync1 (op : Op) (addr : Byte) (value : Half) (n : State) : (latchCommand op addr value n).sync1 = n.sync1 := rfl
@[simp] theorem latchCommand_sync2 (op : Op) (addr : Byte) (value : Half) (n : State) : (latchCommand op addr value n).sync2 = n.sync2 := rfl
@[simp] theorem latchCommand_sprev (op : Op) (addr : Byte) (value : Half) (n : State) : (latchCommand op addr value n).sprev = n.sprev := rfl
@[simp] theorem latchCommand_servo (op : Op) (addr : Byte) (value : Half) (n : State) : (latchCommand op addr value n).servo = n.servo := rfl
@[simp] theorem latchCommand_inputs (op : Op) (addr : Byte) (value : Half) (n : State) : (latchCommand op addr value n).inputs = n.inputs := rfl
@[simp] theorem latchCommand_cycle (op : Op) (addr : Byte) (value : Half) (n : State) : (latchCommand op addr value n).cycle = n.cycle := rfl

/-! ### The fields after `acceptExec` -/

@[simp] theorem acceptExec_cfg (op : Op) (addr : Byte) (value : Half) (n : State) : (acceptExec op addr value n).cfg = n.cfg := rfl
@[simp] theorem acceptExec_attached (op : Op) (addr : Byte) (value : Half) (n : State) : (acceptExec op addr value n).attached = n.attached := rfl
@[simp] theorem acceptExec_busy (op : Op) (addr : Byte) (value : Half) (n : State) : (acceptExec op addr value n).busy = true := rfl
@[simp] theorem acceptExec_done (op : Op) (addr : Byte) (value : Half) (n : State) : (acceptExec op addr value n).done = false := rfl
@[simp] theorem acceptExec_err (op : Op) (addr : Byte) (value : Half) (n : State) : (acceptExec op addr value n).err = 0#3 := rfl
@[simp] theorem acceptExec_ovr (op : Op) (addr : Byte) (value : Half) (n : State) : (acceptExec op addr value n).ovr = n.ovr := rfl
@[simp] theorem acceptExec_rdata (op : Op) (addr : Byte) (value : Half) (n : State) : (acceptExec op addr value n).rdata = n.rdata := rfl
@[simp] theorem acceptExec_phase (op : Op) (addr : Byte) (value : Half) (n : State) : (acceptExec op addr value n).phase = .exec := rfl
@[simp] theorem acceptExec_op (op : Op) (addr : Byte) (value : Half) (n : State) : (acceptExec op addr value n).op = op := rfl
@[simp] theorem acceptExec_addr (op : Op) (addr : Byte) (value : Half) (n : State) : (acceptExec op addr value n).addr = addr := rfl
@[simp] theorem acceptExec_value (op : Op) (addr : Byte) (value : Half) (n : State) : (acceptExec op addr value n).value = value := rfl
@[simp] theorem acceptExec_txbuf (op : Op) (addr : Byte) (value : Half) (n : State) : (acceptExec op addr value n).txbuf = n.txbuf := rfl
@[simp] theorem acceptExec_txlen (op : Op) (addr : Byte) (value : Half) (n : State) : (acceptExec op addr value n).txlen = n.txlen := rfl
@[simp] theorem acceptExec_t (op : Op) (addr : Byte) (value : Half) (n : State) : (acceptExec op addr value n).t = n.t := rfl
@[simp] theorem acceptExec_rxidx (op : Op) (addr : Byte) (value : Half) (n : State) : (acceptExec op addr value n).rxidx = n.rxidx := rfl
@[simp] theorem acceptExec_shift (op : Op) (addr : Byte) (value : Half) (n : State) : (acceptExec op addr value n).shift = n.shift := rfl
@[simp] theorem acceptExec_rxbuf (op : Op) (addr : Byte) (value : Half) (n : State) : (acceptExec op addr value n).rxbuf = n.rxbuf := rfl
@[simp] theorem acceptExec_ferr (op : Op) (addr : Byte) (value : Half) (n : State) : (acceptExec op addr value n).ferr = n.ferr := rfl
@[simp] theorem acceptExec_sync1 (op : Op) (addr : Byte) (value : Half) (n : State) : (acceptExec op addr value n).sync1 = n.sync1 := rfl
@[simp] theorem acceptExec_sync2 (op : Op) (addr : Byte) (value : Half) (n : State) : (acceptExec op addr value n).sync2 = n.sync2 := rfl
@[simp] theorem acceptExec_sprev (op : Op) (addr : Byte) (value : Half) (n : State) : (acceptExec op addr value n).sprev = n.sprev := rfl
@[simp] theorem acceptExec_servo (op : Op) (addr : Byte) (value : Half) (n : State) : (acceptExec op addr value n).servo = n.servo := rfl
@[simp] theorem acceptExec_inputs (op : Op) (addr : Byte) (value : Half) (n : State) : (acceptExec op addr value n).inputs = n.inputs := rfl
@[simp] theorem acceptExec_cycle (op : Op) (addr : Byte) (value : Half) (n : State) : (acceptExec op addr value n).cycle = n.cycle := rfl

/-! ### The fields after `writeStatus` -/

@[simp] theorem writeStatus_cfg (completed : Bool) (wdata : Word) (n : State) : (writeStatus completed wdata n).cfg = n.cfg := rfl
@[simp] theorem writeStatus_attached (completed : Bool) (wdata : Word) (n : State) : (writeStatus completed wdata n).attached = n.attached := rfl
@[simp] theorem writeStatus_busy (completed : Bool) (wdata : Word) (n : State) : (writeStatus completed wdata n).busy = n.busy := rfl
@[simp] theorem writeStatus_done (completed : Bool) (wdata : Word) (n : State) : (writeStatus completed wdata n).done = (n.done && !(clearsDone wdata && !completed)) := rfl
@[simp] theorem writeStatus_err (completed : Bool) (wdata : Word) (n : State) : (writeStatus completed wdata n).err = n.err := rfl
@[simp] theorem writeStatus_ovr (completed : Bool) (wdata : Word) (n : State) : (writeStatus completed wdata n).ovr = (n.ovr && !clearsOvr wdata) := rfl
@[simp] theorem writeStatus_rdata (completed : Bool) (wdata : Word) (n : State) : (writeStatus completed wdata n).rdata = n.rdata := rfl
@[simp] theorem writeStatus_phase (completed : Bool) (wdata : Word) (n : State) : (writeStatus completed wdata n).phase = n.phase := rfl
@[simp] theorem writeStatus_op (completed : Bool) (wdata : Word) (n : State) : (writeStatus completed wdata n).op = n.op := rfl
@[simp] theorem writeStatus_addr (completed : Bool) (wdata : Word) (n : State) : (writeStatus completed wdata n).addr = n.addr := rfl
@[simp] theorem writeStatus_value (completed : Bool) (wdata : Word) (n : State) : (writeStatus completed wdata n).value = n.value := rfl
@[simp] theorem writeStatus_txbuf (completed : Bool) (wdata : Word) (n : State) : (writeStatus completed wdata n).txbuf = n.txbuf := rfl
@[simp] theorem writeStatus_txlen (completed : Bool) (wdata : Word) (n : State) : (writeStatus completed wdata n).txlen = n.txlen := rfl
@[simp] theorem writeStatus_t (completed : Bool) (wdata : Word) (n : State) : (writeStatus completed wdata n).t = n.t := rfl
@[simp] theorem writeStatus_rxidx (completed : Bool) (wdata : Word) (n : State) : (writeStatus completed wdata n).rxidx = n.rxidx := rfl
@[simp] theorem writeStatus_shift (completed : Bool) (wdata : Word) (n : State) : (writeStatus completed wdata n).shift = n.shift := rfl
@[simp] theorem writeStatus_rxbuf (completed : Bool) (wdata : Word) (n : State) : (writeStatus completed wdata n).rxbuf = n.rxbuf := rfl
@[simp] theorem writeStatus_ferr (completed : Bool) (wdata : Word) (n : State) : (writeStatus completed wdata n).ferr = n.ferr := rfl
@[simp] theorem writeStatus_sync1 (completed : Bool) (wdata : Word) (n : State) : (writeStatus completed wdata n).sync1 = n.sync1 := rfl
@[simp] theorem writeStatus_sync2 (completed : Bool) (wdata : Word) (n : State) : (writeStatus completed wdata n).sync2 = n.sync2 := rfl
@[simp] theorem writeStatus_sprev (completed : Bool) (wdata : Word) (n : State) : (writeStatus completed wdata n).sprev = n.sprev := rfl
@[simp] theorem writeStatus_servo (completed : Bool) (wdata : Word) (n : State) : (writeStatus completed wdata n).servo = n.servo := rfl
@[simp] theorem writeStatus_inputs (completed : Bool) (wdata : Word) (n : State) : (writeStatus completed wdata n).inputs = n.inputs := rfl
@[simp] theorem writeStatus_cycle (completed : Bool) (wdata : Word) (n : State) : (writeStatus completed wdata n).cycle = n.cycle := rfl

/-! ### The fields after `resetCycle` -/

@[simp] theorem resetCycle_cfg (s : State) : (resetCycle s).cfg = s.cfg := rfl
@[simp] theorem resetCycle_attached (s : State) : (resetCycle s).attached = false := rfl
@[simp] theorem resetCycle_busy (s : State) : (resetCycle s).busy = false := rfl
@[simp] theorem resetCycle_done (s : State) : (resetCycle s).done = false := rfl
@[simp] theorem resetCycle_err (s : State) : (resetCycle s).err = 0#3 := rfl
@[simp] theorem resetCycle_ovr (s : State) : (resetCycle s).ovr = false := rfl
@[simp] theorem resetCycle_rdata (s : State) : (resetCycle s).rdata = 0#16 := rfl
@[simp] theorem resetCycle_phase (s : State) : (resetCycle s).phase = .idle := rfl
@[simp] theorem resetCycle_op (s : State) : (resetCycle s).op = (Config.resetDraw s.cycle).op := rfl
@[simp] theorem resetCycle_addr (s : State) : (resetCycle s).addr = (Config.resetDraw s.cycle).addr := rfl
@[simp] theorem resetCycle_value (s : State) : (resetCycle s).value = (Config.resetDraw s.cycle).value := rfl
@[simp] theorem resetCycle_txbuf (s : State) : (resetCycle s).txbuf = (Config.resetDraw s.cycle).txbuf := rfl
@[simp] theorem resetCycle_txlen (s : State) : (resetCycle s).txlen = (Config.resetDraw s.cycle).txlen := rfl
@[simp] theorem resetCycle_t (s : State) : (resetCycle s).t = 0 := rfl
@[simp] theorem resetCycle_rxidx (s : State) : (resetCycle s).rxidx = (Config.resetDraw s.cycle).rxidx := rfl
@[simp] theorem resetCycle_shift (s : State) : (resetCycle s).shift = (Config.resetDraw s.cycle).shift := rfl
@[simp] theorem resetCycle_rxbuf (s : State) : (resetCycle s).rxbuf = (Config.resetDraw s.cycle).rxbuf := rfl
@[simp] theorem resetCycle_ferr (s : State) : (resetCycle s).ferr = (Config.resetDraw s.cycle).ferr := rfl
@[simp] theorem resetCycle_sync1 (s : State) : (resetCycle s).sync1 = wire s := rfl
@[simp] theorem resetCycle_sync2 (s : State) : (resetCycle s).sync2 = s.sync1 := rfl
@[simp] theorem resetCycle_sprev (s : State) : (resetCycle s).sprev = s.sync2 := rfl
@[simp] theorem resetCycle_servo (s : State) : (resetCycle s).servo = servoAdvance s.servo := rfl
@[simp] theorem resetCycle_inputs (s : State) : (resetCycle s).inputs = s.inputs.tail := rfl
@[simp] theorem resetCycle_cycle (s : State) : (resetCycle s).cycle = s.cycle + 1 := rfl

@[simp] theorem complete_completed (code : ResultCode) (s : State) : (complete code s).completed = true := rfl
@[simp] theorem goOn_next (n : State) : (goOn n).next = n := rfl
@[simp] theorem goOn_completed (n : State) : (goOn n).completed = false := rfl

end Sys2Proof.Machine
end

