-- ==== Sys2Proof/Laws/Ops.lean ====
section
/-!
SUPPORT. What each shared operation can do, said once: the far end, the bus write, the phase steps and a whole cycle.
-/

namespace Sys2Proof.Machine

/-! ### Checksum and frames -/

theorem cks_eq_of_sum (bs : List Byte) : cks bs = BitVec.ofNat 8 ((bs.map BitVec.toNat).sum) := rfl

@[simp] theorem writeRequestCks_eq (addr lo hi : Byte) : writeRequestCks addr lo hi = 0x00#8 + addr + 0x02#8 + lo + hi := by
  apply BitVec.eq_of_toNat_eq
  simp only [writeRequestCks, cks, List.map_cons, List.map_nil, List.sum_cons, List.sum_nil, BitVec.toNat_ofNat,
    BitVec.toNat_add]
  omega

@[simp] theorem responseCks_eq (m a l lo hi : Byte) : responseCks m a l lo hi = m + a + l + lo + hi := by
  apply BitVec.eq_of_toNat_eq
  simp only [responseCks, cks, List.map_cons, List.map_nil, List.sum_cons, List.sum_nil, BitVec.toNat_ofNat,
    BitVec.toNat_add]
  omega

/-! ### The far end -/

@[simp] theorem servoAdvance_regs (v : Servo) : (servoAdvance v).regs = v.regs := rfl
@[simp] theorem servoAdvance_far (v : Servo) : (servoAdvance v).far = v.far := rfl
@[simp] theorem servoAdvance_reply (v : Servo) :
    (servoAdvance v).reply = v.reply.map (fun r => { r with since := r.since + 1 }) := rfl

/-- What a servo can do with a frame: write one register, start a reply, or nothing. -/
theorem servoTake_cases (m : Byte) (bytes : List Byte) (v : Servo) :
    (∃ a lo hi c, decodeRequest bytes = .ok (.wireWriteRequest a lo hi c) ∧
      servoTake m bytes v = { v with regs := servoWrite v.regs a (joinBytes lo hi) }) ∨
    (∃ a c, decodeRequest bytes = .ok (.wireReadRequest a c) ∧
      servoTake m bytes v = { v with reply := some ⟨0, responseFrame m a (servoRead v.regs a)⟩ }) ∨
    servoTake m bytes v = v := by
  unfold servoTake
  split
  · next a lo hi c h => exact .inl ⟨a, lo, hi, c, h, rfl⟩
  · next a c h => exact .inr (.inl ⟨a, c, h, rfl⟩)
  · exact .inr (.inr rfl)

@[simp] theorem servoTake_far (m : Byte) (bytes : List Byte) (v : Servo) : (servoTake m bytes v).far = v.far := by
  rcases servoTake_cases m bytes v with ⟨a, lo, hi, c, -, h⟩ | ⟨a, c, -, h⟩ | h <;> rw [h]

theorem servoTake_keeps_wf (m : Byte) (bytes : List Byte) (v : Servo) (h : v.regs.wf = true) :
    (servoTake m bytes v).regs.wf = true := by
  rcases servoTake_cases m bytes v with ⟨a, lo, hi, c, -, e⟩ | ⟨a, c, -, e⟩ | e <;> rw [e]
  · exact servoWrite_keeps_wf a _ h
  · exact h
  · exact h

/-- Away from the end of a frame the far end only goes on with its reply. -/
theorem servoNext_of_not_txEnd {s : State} (h : ¬(s.phase = .tx ∧ txEnds s = true)) :
    servoNext s = servoAdvance s.servo := by
  unfold servoNext
  rw [if_neg h]

@[simp] theorem servoNext_far (s : State) : (servoNext s).far = s.servo.far := by
  unfold servoNext
  split
  · split <;> simp_all
  · rfl

theorem servoNext_keeps_wf {s : State} (h : s.servo.regs.wf = true) : (servoNext s).regs.wf = true := by
  unfold servoNext
  split
  · split
    · exact h
    · exact h
    · exact servoTake_keeps_wf _ _ _ h
    · exact servoTake_keeps_wf _ _ _ h
  · exact h

/-! ### The bus write -/

/-- The bus write of a busy block touches `DONE` and `OVR` only. -/
theorem busWrite_busy {s : State} (hb : s.busy = true) (p : Progress) :
    busWrite s p =
      { p.next with
        done := if (currentInput s).writes = true ∧ (currentInput s).busWord = 1#2 then
            p.next.done && !(clearsDone (currentInput s).busWdata && !p.completed) else p.next.done
        ovr := if (currentInput s).writesCmd = true then true
          else if (currentInput s).writes = true ∧ (currentInput s).busWord = 1#2 then
            p.next.ovr && !clearsOvr (currentInput s).busWdata else p.next.ovr } := by
  unfold busWrite CycleInput.writesCmd
  by_cases hw : (currentInput s).writes = true
  · by_cases h0 : (currentInput s).busWord = 0#2
    · simp [hw, h0, hb]
    · by_cases h1 : (currentInput s).busWord = 1#2
      · simp [hw, h1, writeStatus]
      · simp [hw, h0, h1]
  · simp only [hw]
    rfl

/-- A cycle of a busy block in which the command goes on. -/
theorem endOfCycle_busWrite_goOn {s n : State} (hb : s.busy = true) (hd : n.done = s.done) (ho : n.ovr = s.ovr) :
    endOfCycle s (busWrite s (goOn n)) = wentOn s n := by
  rw [busWrite_busy hb]
  simp only [wentOn, keptDone, busyOvr, goOn_next, goOn_completed, hd, ho, Bool.not_false, Bool.and_true]

/-- A cycle of a busy block in which the command completes. -/
theorem endOfCycle_busWrite_complete {s n : State} (code : ResultCode) (hb : s.busy = true) (ho : n.ovr = s.ovr) :
    endOfCycle s (busWrite s (complete code n)) =
      completedWith code s { n with rdata := if n.op = .readReg ∧ code = .ok then responseValue n.rxbuf else n.rdata } := by
  rw [busWrite_busy hb]
  simp only [completedWith, busyOvr, complete, ho, Bool.not_true, Bool.and_false, Bool.not_false, Bool.and_true, ite_self]

/-! ### The phase step -/

/-- Validation answers `OK` or `CorruptResponse`, nothing else (41_framer.md R119). -/
theorem validateFrame_cases (f : FrameBuf) (addr : Byte) (ferr : Bool) :
    validateFrame f addr ferr = .ok ∨ validateFrame f addr ferr = .corruptResponse := by
  unfold validateFrame
  split
  · exact .inl rfl
  · exact .inr rfl

theorem ResultCode.code_le (code : ResultCode) : code.code ≤ 5#3 := by cases code <;> decide

/-- A step of the transceiver completes the command, or goes on and touches only the phase, its counter and the receive registers. -/
def TransceiverStep (s : State) (p : Progress) : Prop :=
  (∃ code, p = complete code s) ∨
    ∃ phase t rxidx ferr shift rxbuf,
      p = goOn { s with phase := phase, t := t, rxidx := rxidx, ferr := ferr, shift := shift, rxbuf := rxbuf }

theorem txStep_cases (s : State) : TransceiverStep s (txStep s) := by
  unfold txStep
  split
  · split
    · exact .inl ⟨_, rfl⟩
    · exact .inr ⟨_, _, _, _, _, _, rfl⟩
  · exact .inr ⟨_, _, _, _, _, _, rfl⟩

theorem presenceStep_cases (s : State) : TransceiverStep s (presenceStep s) := by
  unfold presenceStep
  split
  · split
    · exact .inl ⟨_, rfl⟩
    · exact .inr ⟨_, _, _, _, _, _, rfl⟩
  · exact .inr ⟨_, _, _, _, _, _, rfl⟩

theorem settleStep_cases (s : State) : TransceiverStep s (settleStep s) := by
  unfold settleStep
  split <;> exact .inr ⟨_, _, _, _, _, _, rfl⟩

theorem rxWaitStep_cases (s : State) : TransceiverStep s (rxWaitStep s) := by
  unfold rxWaitStep
  split
  · exact .inr ⟨_, _, _, _, _, _, rfl⟩
  · split
    · exact .inl ⟨_, rfl⟩
    · exact .inr ⟨_, _, _, _, _, _, rfl⟩

theorem rxBitsStep_cases (s : State) : TransceiverStep s (rxBitsStep s) := by
  unfold rxBitsStep stopSample
  split
  · split
    · exact .inr ⟨_, _, _, _, _, _, rfl⟩
    · by_cases h : s.rxidx = 6#3
      · simp only [h, if_true]; exact .inr ⟨_, _, _, _, _, _, by rw [← h]⟩
      · simp only [h, if_false]; exact .inr ⟨_, _, _, _, _, _, rfl⟩
  · exact .inr ⟨_, _, _, _, _, _, rfl⟩

theorem pullupStep_cases (s : State) : TransceiverStep s (pullupStep s) := by
  unfold pullupStep
  split
  · exact .inl ⟨_, rfl⟩
  · split
    · exact .inl ⟨_, rfl⟩
    · exact .inr ⟨_, _, _, _, _, _, rfl⟩

/-- `EXEC` always completes, and touches only the attachment (42_sequencer.md R129). -/
theorem execStep_cases (s : State) : ∃ code attached, execStep s = complete code { s with attached := attached } := by
  unfold execStep
  split
  · exact ⟨_, s.attached, rfl⟩
  · exact ⟨_, true, rfl⟩
  · exact ⟨_, false, rfl⟩
  · exact ⟨_, s.attached, rfl⟩
  · exact ⟨_, s.attached, rfl⟩

/-- All a phase step can do: complete the command, having touched at most the attachment, or go on (42_sequencer.md R128). -/
theorem phaseStep_cases (s : State) :
    (∃ code attached, phaseStep s = complete code { s with attached := attached }) ∨
      ∃ phase t rxidx ferr shift rxbuf,
        phaseStep s =
          goOn { s with phase := phase, t := t, rxidx := rxidx, ferr := ferr, shift := shift, rxbuf := rxbuf } := by
  have lift : ∀ p, TransceiverStep s p →
      (∃ code attached, p = complete code { s with attached := attached }) ∨
        ∃ phase t rxidx ferr shift rxbuf,
          p = goOn { s with phase := phase, t := t, rxidx := rxidx, ferr := ferr, shift := shift, rxbuf := rxbuf } := by
    rintro p (⟨code, rfl⟩ | h)
    · exact .inl ⟨code, s.attached, rfl⟩
    · exact .inr h
  unfold phaseStep
  split
  · exact .inr ⟨_, _, _, _, _, _, rfl⟩
  · exact .inl (execStep_cases s)
  · exact lift _ (txStep_cases s)
  · exact lift _ (presenceStep_cases s)
  · exact lift _ (settleStep_cases s)
  · exact lift _ (rxWaitStep_cases s)
  · exact lift _ (rxBitsStep_cases s)
  · exact lift _ (pullupStep_cases s)

/-- A phase step that completes leaves an idle block with a result (42_sequencer.md R139). -/
theorem phaseStep_completed {s : State} (h : (phaseStep s).completed = true) :
    (phaseStep s).next.busy = false ∧ (phaseStep s).next.done = true ∧ (phaseStep s).next.err ≤ 5#3 ∧
      (phaseStep s).next.phase = .idle ∧ (phaseStep s).next.t = 0 := by
  rcases phaseStep_cases s with ⟨code, a, e⟩ | ⟨_, _, _, _, _, _, e⟩ <;> rw [e] at h ⊢
  · exact ⟨rfl, rfl, code.code_le, rfl, rfl⟩
  · cases h

/-- A phase step that does not complete leaves what the host sees alone. -/
theorem phaseStep_went_on {s : State} (h : (phaseStep s).completed = false) :
    (phaseStep s).next.busy = s.busy ∧ (phaseStep s).next.done = s.done ∧ (phaseStep s).next.err = s.err ∧
      (phaseStep s).next.rdata = s.rdata ∧ (phaseStep s).next.attached = s.attached := by
  rcases phaseStep_cases s with ⟨code, a, e⟩ | ⟨_, _, _, _, _, _, e⟩ <;> rw [e] at h ⊢
  · cases h
  · exact ⟨rfl, rfl, rfl, rfl, rfl⟩

/-- The phase step completes exactly where `resultNow` says, with that code; elsewhere it leaves `BUSY`, `DONE` and `ERR` alone. -/
theorem phaseStep_resultNow {s : State} (h : PhaseInv s) :
    match resultNow s with
    | some code =>
      s.busy = true ∧ (phaseStep s).completed = true ∧ (phaseStep s).next.err = code.code ∧
        (phaseStep s).next.busy = false ∧ (phaseStep s).next.done = true
    | none =>
      (phaseStep s).completed = false ∧ (phaseStep s).next.err = s.err ∧ (phaseStep s).next.busy = s.busy ∧
        (phaseStep s).next.done = s.done := by
  unfold PhaseInv at h
  unfold resultNow phaseStep
  cases hp : s.phase <;> simp only [hp] at h ⊢
  · exact ⟨rfl, rfl, rfl, rfl⟩
  · unfold execStep
    cases ho : s.op <;> simp [illegalStep, attachStep, detachStep, notAttachedStep, complete, h.1]
  · unfold txStep txEnds Params.txCycles
    by_cases ht : s.t = s.cfg.bitCycles * (1 + 10 * s.txlen.toNat) - 1 <;> by_cases ho : s.op = .writeReg <;>
      simp [ht, ho, complete, goOn, tick, h.1]
  · unfold presenceStep lineHigh
    by_cases ht : s.t = s.cfg.presenceDelayCycles <;> by_cases hs : s.sync2 = .H <;>
      simp [ht, hs, complete, goOn, tick, h.1.1]
  · unfold settleStep
    split_ifs <;> exact ⟨rfl, rfl, rfl, rfl⟩
  · unfold rxWaitStep startEdge
    by_cases hl : s.sprev = .L <;> by_cases hs : s.sync2 = .H <;> by_cases ht : s.t = s.cfg.startTimeoutCycles - 1 <;>
      simp [hl, hs, ht, complete, goOn, tick, h.1.1]
  · unfold rxBitsStep stopSample
    split_ifs <;> exact ⟨rfl, rfl, rfl, rfl⟩
  · unfold pullupStep lineHigh
    by_cases hs : s.sync2 = .H <;> by_cases ht : s.t = s.cfg.pullupWindowCycles - 1 <;>
      simp [hs, ht, complete, goOn, tick, h.1.1]

/-! ### Acceptance -/

/-- An acceptance leaves `OVR`, `RDATA`, the attachment, the receive registers, the synchroniser, the far end and the inputs alone, and makes the
block busy with no result (42_sequencer.md R125). -/
theorem acceptWord_keeps (w : Word) (n : State) :
    (acceptWord w n).busy = true ∧ (acceptWord w n).done = false ∧ (acceptWord w n).err = 0#3 ∧
      (acceptWord w n).op = wordKind w ∧ (acceptWord w n).addr = addrField w ∧ (acceptWord w n).value = valueField w ∧
      (acceptWord w n).cfg = n.cfg ∧ (acceptWord w n).ovr = n.ovr ∧ (acceptWord w n).rdata = n.rdata ∧
      (acceptWord w n).attached = n.attached ∧ (acceptWord w n).servo = n.servo ∧ (acceptWord w n).inputs = n.inputs := by
  unfold acceptWord acceptWrite acceptRead
  cases wordKind w <;> simp only [] <;> (try split) <;>
    simp [acceptExec, latchCommand, buildWriteFrame, buildReadFrame]

/-- The phase an acceptance enters: `TX` for an attached `WRITE_REG` or `READ_REG`, else `EXEC` (42_sequencer.md R125, R127). -/
theorem acceptWord_phase (w : Word) (n : State) :
    (acceptWord w n).phase =
      if (wordKind w = .writeReg ∨ wordKind w = .readReg) ∧ n.attached = true then .tx else .exec := by
  unfold acceptWord acceptWrite acceptRead
  cases wordKind w <;> cases n.attached <;> simp [acceptExec]

/-! ### Phases of a busy block -/

/-- Outside `EXEC` a busy block's cycle is the same for every command. -/
theorem commandCycle_busy {s : State} (hb : s.busy = true) (hp : s.phase ≠ .exec) (accept : State → State)
    (ownExec : State → Progress) : commandCycle accept ownExec s = cycleStep s := by
  unfold commandCycle
  rw [if_pos hb]
  split
  · contradiction
  · rfl

theorem commandCycle_exec {s : State} (hb : s.busy = true) (hp : s.phase = .exec) (accept : State → State)
    (ownExec : State → Progress) : commandCycle accept ownExec s = endOfCycle s (busWrite s (ownExec s)) := by
  unfold commandCycle
  rw [if_pos hb, hp]

theorem commandCycle_idle {s : State} (hb : s.busy = false) (hp : s.phase = .idle) (accept : State → State)
    (ownExec : State → Progress) : commandCycle accept ownExec s = endOfCycle s (accept s) := by
  simp [commandCycle, hb, phaseStep, hp]

end Sys2Proof.Machine
end

