-- ==== Sys2Proof/Laws/Decode.lean ====
section
/-!
SUPPORT. What the decoders can answer, said once: the fields of a built command word, the frames a request or a response decoder takes,
and the buffer that already holds the frame it is given.
-/

namespace Sys2Proof.Machine

/-- The fields of a command word are the ones it was built from, and `RSV` is 0. -/
theorem commandWord_fields (op : BitVec 4) (a : Byte) (v : Half) :
    opField (commandWord op a v) = op ∧ addrField (commandWord op a v) = a ∧
      valueField (commandWord op a v) = v ∧ rsvField (commandWord op a v) = 0#4 := by
  refine ⟨?_, ?_, ?_, ?_⟩ <;>
  · apply BitVec.eq_of_getLsbD_eq
    intro i hi
    simp only [commandWord, opField, addrField, valueField, rsvField, BitVec.getLsbD_append, BitVec.getLsbD_extractLsb',
      BitVec.getLsbD_zero, hi]
    simp (disch := omega) [hi, show ¬(8 + i) < 4 by omega, show ¬(16 + i) < 4 by omega, show ¬(8 + i - 4) < 4 by omega,
      show ¬(16 + i - 4) < 4 by omega, show ¬(16 + i - 4 - 4) < 8 by omega, show 8 + i - 4 - 4 = i by omega,
      show 16 + i - 4 - 4 - 8 = i by omega]

/-- A word with `RSV = 0` is built from its fields. -/
theorem commandWord_of_fields (w : Word) (h : rsvField w = 0#4) :
    commandWord (opField w) (addrField w) (valueField w) = w := by
  have h' : ∀ i, i < 4 → w.getLsbD (4 + i) = false := by
    intro i hi
    have := congrArg (fun x => x.getLsbD i) h
    simpa [rsvField, hi] using this
  apply BitVec.eq_of_getLsbD_eq
  intro i hi
  simp only [commandWord, opField, addrField, valueField, BitVec.getLsbD_append, BitVec.getLsbD_extractLsb',
    BitVec.getLsbD_zero]
  by_cases h4 : i < 4
  · simp [h4]
  · by_cases h8 : i < 8
    · have := h' (i - 4) (by omega)
      rw [show 4 + (i - 4) = i by omega] at this
      simp [h4, show i - 4 < 4 by omega, this]
    · by_cases h16 : i < 16
      · simp [h4, show ¬i - 4 < 4 by omega, show i - 4 - 4 < 8 by omega, show 8 + (i - 4 - 4) = i by omega]
      · simp [h4, show ¬i - 4 < 4 by omega, show ¬i - 4 - 4 < 8 by omega, show i - 4 - 4 - 8 < 16 by omega,
          show 16 + (i - 4 - 4 - 8) = i by omega]

/-- The kind and the fields of the latched command word are the latched ones. -/
theorem latchedWord_fields (s : State) :
    wordKind (latchedWord s) = s.op ∧ addrField (latchedWord s) = s.addr ∧ valueField (latchedWord s) = s.value := by
  obtain ⟨h1, h2, h3, h4⟩ := commandWord_fields s.op.code s.addr s.value
  refine ⟨?_, h2, h3⟩
  simp only [wordKind, latchedWord, h1, h4]
  cases s.op <;> simp [Op.code]

/-- Every frame the request decoder takes, and what it reads from it. -/
theorem decodeRequest_ok {bs : List Byte} {i : Instr} (h : decodeRequest bs = .ok i) :
    (∃ a c, bs = [requestLeader, 0x00#8, a, 0x00#8, c] ∧ i = .wireReadRequest a c ∧ c = readRequestCks a) ∨
      ∃ a lo hi c, bs = [requestLeader, 0x00#8, a, 0x02#8, lo, hi, c] ∧ i = .wireWriteRequest a lo hi c ∧
        c = writeRequestCks a lo hi := by
  unfold decodeRequest at h
  split at h
  · split_ifs at h with h1 h2 h3 h4
    simp only [bne_iff_ne, ne_eq, Decidable.not_not] at h1 h2 h3 h4
    cases h
    exact .inl ⟨_, _, by simp [h1, h2, h3], rfl, h4⟩
  · split_ifs at h with h1 h2 h3 h4
    simp only [bne_iff_ne, ne_eq, Decidable.not_not] at h1 h2 h3 h4
    cases h
    exact .inr ⟨_, _, _, _, by simp [h1, h2, h3], rfl, h4⟩
  · cases h

/-- Every frame the response decoder takes, and what it reads from it. -/
theorem decodeResponse_ok {bs : List Byte} {i : Instr} (h : decodeResponse bs = .ok i) :
    ∃ m a lo hi c, bs = [responseLeader, m, a, 0x02#8, lo, hi, c] ∧ i = .wireReadResponse m a lo hi c ∧
      c = responseCks m a 0x02#8 lo hi := by
  unfold decodeResponse at h
  split at h
  · split_ifs at h with h1 h2 h3
    simp only [bne_iff_ne, ne_eq, Decidable.not_not] at h1 h2 h3
    cases h
    exact ⟨_, _, _, _, _, by simp [h1, h2], rfl, h3⟩
  · cases h

theorem txFrame_length (s : State) : (txFrame s).length = s.txlen.toNat := by
  have := s.txlen.isLt
  simp only [txFrame, FrameBuf.bytes, List.length_take, List.length_cons, List.length_nil]
  omega

/-- The transmit buffer already holds the read request that stands in it. -/
theorem withReadRequest_self {s : State} {a c : Byte} (hf : txFrame s = [requestLeader, 0x00#8, a, 0x00#8, c]) :
    withReadRequest a c s = s := by
  have h5 : s.txlen = 5#3 := by
    apply BitVec.eq_of_toNat_eq
    have := txFrame_length s
    rw [hf] at this
    simpa using this.symm
  simp only [txFrame, h5, FrameBuf.bytes] at hf
  simp at hf
  obtain ⟨e0, e1, e2, e3, e4⟩ := hf
  cases s with | mk cfg at_ b d e o r p op ad v tb tl t rx sh rb fe s1 s2 sp sv inp cy =>
  cases tb
  simp_all [withReadRequest, readRequestBuf]

/-- The transmit buffer already holds the write request that stands in it. -/
theorem withWriteRequest_self {s : State} {a lo hi c : Byte}
    (hf : txFrame s = [requestLeader, 0x00#8, a, 0x02#8, lo, hi, c]) : withWriteRequest a lo hi c s = s := by
  have h7 : s.txlen = 7#3 := by
    apply BitVec.eq_of_toNat_eq
    have := txFrame_length s
    rw [hf] at this
    simpa using this.symm
  simp only [txFrame, h7, FrameBuf.bytes] at hf
  simp at hf
  cases s with | mk cfg at_ b d e o r p op ad v tb tl t rx sh rb fe s1 s2 sp sv inp cy =>
  cases tb
  simp_all [withWriteRequest, writeRequestBuf]

/-- The receive buffer already holds the response that stands in it. -/
theorem withResponse_self {s : State} {m a lo hi c : Byte}
    (hf : s.rxbuf.bytes = [responseLeader, m, a, 0x02#8, lo, hi, c]) : withResponse m a lo hi c s = s := by
  simp only [FrameBuf.bytes] at hf
  cases s with | mk cfg at_ b d e o r p op ad v tb tl t rx sh rb fe s1 s2 sp sv inp cy =>
  cases rb
  simp_all [withResponse, responseBuf]

end Sys2Proof.Machine
end

