-- ==== Sys2Proof/Laws/PerInstr.lean ====
section
/-!
SUPPORT. A statement made for each instruction: its encoding matches its row of spec/opcode_table.json.
-/

namespace Sys2Proof.Laws

open Sys2Proof.Machine

/-- The words and frames of an instruction's row of the opcode table: the mask and match of a command word, the fixed bytes and the checksum
of a frame (30_encoding.md R71, R72, R77 to R79, R84). -/
def EncodingMatchesTable.row : Instr → Code → Prop
  | .attach _ _, .word w => w &&& 0x000000FF#32 = 0x00000001#32
  | .detach _ _, .word w => w &&& 0x000000FF#32 = 0x00000002#32
  | .writeReg _ _, .word w => w &&& 0x000000FF#32 = 0x00000003#32
  | .readReg _ _, .word w => w &&& 0x000000FF#32 = 0x00000004#32 ∧ w ≠ 0x00000004#32
  | .readModel, .word w => w = 0x00000004#32
  | .illegal _, .word w =>
    w &&& 0x000000FF#32 ≠ 0x00000001#32 ∧ w &&& 0x000000FF#32 ≠ 0x00000002#32 ∧ w &&& 0x000000FF#32 ≠ 0x00000003#32 ∧
      w &&& 0x000000FF#32 ≠ 0x00000004#32
  | .wireWriteRequest _ _ _ _, .frame bs =>
    ∃ a lo hi, bs = [0x96#8, 0x00#8, a, 0x02#8, lo, hi, 0x00#8 + a + 0x02#8 + lo + hi]
  | .wireReadRequest _ _, .frame bs => ∃ a, bs = [0x96#8, 0x00#8, a, 0x00#8, cks [0x00#8, a, 0x00#8]]
  | .wireReadResponse _ _ _ _ _, .frame bs =>
    ∃ m a lo hi, bs = [0x69#8, m, a, 0x02#8, lo, hi, m + a + 0x02#8 + lo + hi]
  | _, _ => False

/-- The encoding of a well-formed instruction is one its row of the table describes. -/
def EncodingMatchesTable.Statement (i : Instr) : Prop := i.wellFormed = true → EncodingMatchesTable.row i (encode i)

/-- The low byte of a command word is its opcode with `RSV = 0`. -/
theorem commandWord_low (op : BitVec 4) (addr : Byte) (value : Half) :
    commandWord op addr value &&& 0x000000FF#32 = op.setWidth 32 := by
  apply BitVec.eq_of_getLsbD_eq
  intro i hi
  have hm : (0x000000FF#32).getLsbD i = decide (i < 8) := by
    revert i; decide
  simp only [BitVec.getLsbD_and, hm, commandWord, BitVec.getLsbD_append, BitVec.getLsbD_setWidth, BitVec.getLsbD_zero, hi]
  by_cases h4 : i < 4
  · simp [h4, show i < 8 by omega]
  · by_cases h8 : i < 8
    · simp [h4, h8, show i - 4 < 4 by omega, BitVec.getLsbD_of_ge op i (by omega)]
    · simp [h8, BitVec.getLsbD_of_ge op i (by omega)]

/-- The low byte of any word is its two low fields. -/
theorem word_low (w : Word) : w &&& 0x000000FF#32 = (rsvField w ++ opField w).setWidth 32 := by
  apply BitVec.eq_of_getLsbD_eq
  intro i hi
  have hm : (0x000000FF#32).getLsbD i = decide (i < 8) := by
    revert i; decide
  simp only [BitVec.getLsbD_and, hm, BitVec.getLsbD_append, BitVec.getLsbD_setWidth, rsvField, opField,
    BitVec.getLsbD_extractLsb', hi]
  by_cases h4 : i < 4
  · simp [h4, show i < 8 by omega]
  · by_cases h8 : i < 8
    · simp [h4, h8, show i - 4 < 4 by omega, show 4 + (i - 4) = i by omega]
    · simp [h4, h8, show ¬i - 4 < 4 by omega]

theorem EncodingMatchesTable.attach (addr : Byte) (value : Half) :
    EncodingMatchesTable.Statement (.attach addr value) := fun _ => commandWord_low 0x1#4 addr value

theorem EncodingMatchesTable.detach (addr : Byte) (value : Half) :
    EncodingMatchesTable.Statement (.detach addr value) := fun _ => commandWord_low 0x2#4 addr value

theorem EncodingMatchesTable.writeReg (addr : Byte) (value : Half) :
    EncodingMatchesTable.Statement (.writeReg addr value) := fun _ => commandWord_low 0x3#4 addr value

theorem EncodingMatchesTable.readReg (addr : Byte) (value : Half) :
    EncodingMatchesTable.Statement (.readReg addr value) := by
  intro h
  refine ⟨commandWord_low 0x4#4 addr value, fun e => ?_⟩
  obtain ⟨-, ha, hv, -⟩ := commandWord_fields 0x4#4 addr value
  rw [e] at ha hv
  subst ha hv
  exact absurd h (by decide)

theorem EncodingMatchesTable.readModel : EncodingMatchesTable.Statement .readModel := fun _ => rfl

theorem EncodingMatchesTable.illegal (word : Word) : EncodingMatchesTable.Statement (.illegal word) := by
  intro h
  simp only [Instr.wellFormed, illegalWord] at h
  simp only [EncodingMatchesTable.row, encode, word_low]
  revert h
  generalize rsvField word = r
  generalize opField word = o
  revert r o
  decide

theorem EncodingMatchesTable.wireWriteRequest (addr lo hi cks : Byte) :
    EncodingMatchesTable.Statement (.wireWriteRequest addr lo hi cks) := by
  intro h
  simp only [Instr.wellFormed, writeRequestCks_eq, beq_iff_eq] at h
  exact ⟨addr, lo, hi, by rw [h]⟩

theorem EncodingMatchesTable.wireReadRequest (addr cks : Byte) :
    EncodingMatchesTable.Statement (.wireReadRequest addr cks) := by
  intro h
  simp only [Instr.wellFormed, beq_iff_eq] at h
  exact ⟨addr, by rw [h]; rfl⟩

theorem EncodingMatchesTable.wireReadResponse (mystery addrEcho lo hi cks2 : Byte) :
    EncodingMatchesTable.Statement (.wireReadResponse mystery addrEcho lo hi cks2) := by
  intro h
  simp only [Instr.wellFormed, responseCks_eq, beq_iff_eq] at h
  exact ⟨mystery, addrEcho, lo, hi, by rw [h]⟩

end Sys2Proof.Laws
end

