-- ==== Sys2Proof/Tests/Slice0.lean ====
section
/-!
SUPPORT. Small tests against the vectors of 95_test_vectors.md and words written out from 30_encoding.md, a smoke test of each
well-formedness check, and for each statement with hypotheses a concrete state that meets them.
-/

namespace Sys2Proof.Tests

open Sys2Proof Sys2Proof.Machine

/-! ### Small states -/

/-- TC1 (95_test_vectors.md, Conventions). -/
def tc1 : Params := ⟨3686400, 0, 32, 2, 400, 100, 16, 128, true⟩

/-- The smallest parameters 00_scope.md R7 admits. -/
def least : Params := ⟨1, 0, 32, 2, 3, 1, 2, 1, false⟩

/-- An idle block, attached or not, in a cycle with the given inputs. -/
def idleState (attached : Bool) (inputs : List CycleInput) : State :=
  { State.resetWith tc1 with attached := attached, inputs := inputs }

/-- An attached block busy with a command, in a cycle in which the host does nothing. -/
def busyState (phase : Phase) (op : Op) (t : Nat) : State :=
  { State.resetWith tc1 with
    attached := true, busy := true, phase := phase, op := op, t := t, inputs := [idleInput .L] }

/-- A detached block in `EXEC`. -/
def execState (op : Op) : State := { busyState .exec op 0 with attached := false }

/-- A block sending `WRITE_REG 0x1E, 0x1234` to a faithful servo. -/
def writingState (t : Nat) : State :=
  { busyState .tx .writeReg t with
    addr := 0x1E#8, value := 0x1234#16, txlen := 7#3,
    txbuf := ⟨0x96#8, 0x00#8, 0x1E#8, 0x02#8, 0x34#8, 0x12#8, 0x66#8⟩,
    servo := { far := .faithful 0 0 0x00#8, regs := [], reply := none } }

/-- A block sending `READ_REG 0x1E` to a faithful servo whose register 0x1E holds 0x1234. -/
def readingState (t : Nat) : State :=
  { busyState .tx .readReg t with
    addr := 0x1E#8, txlen := 5#3, txbuf := ⟨0x96#8, 0x00#8, 0x1E#8, 0x00#8, 0x1E#8, 0x00#8, 0x00#8⟩,
    servo := { far := .faithful 0 0 0x5A#8, regs := [(60, 0x34#8), (61, 0x12#8)], reply := none } }

/-- A block that waits for the pull-up with the response of V-SRC2 received. -/
def checkingState (level : Level) (t : Nat) : State :=
  { busyState .pullup .readReg t with
    addr := 0x1E#8, sync2 := level, rxbuf := ⟨0x69#8, 0x00#8, 0x1E#8, 0x02#8, 0x34#8, 0x12#8, 0x66#8⟩ }

/-- An attached idle block to which the host writes a command word in this cycle, with the given far end. -/
def issuing (w : Word) (far : FarEnd) : State :=
  { idleState true [writeInput 0#2 w .H] with servo := { far := far, regs := [], reply := none } }

/-- Whether an outcome is a next state with a property. -/
def nextHas (p : State → Bool) : Host.Outcome State Fault Refusal → Bool
  | .next t => p t
  | .fault _ => false
  | .refused _ => false

/-! ### Well-formedness -/

theorem test_wf_readReg_zero_is_readModel : (Instr.readReg 0x00#8 0x0000#16).wellFormed = false := by decide
theorem test_wf_illegal_of_attach : (Instr.illegal 0x00000001#32).wellFormed = false := by decide
theorem test_wf_illegal_of_readModel : (Instr.illegal 0xFFFFFF04#32).wellFormed = false := by decide
theorem test_wf_writeRequest_checksum : (Instr.wireWriteRequest 0x1E#8 0x34#8 0x12#8 0x67#8).wellFormed = false := by
  decide
theorem test_wf_readRequest_checksum : (Instr.wireReadRequest 0x1E#8 0x1F#8).wellFormed = false := by decide
theorem test_wf_response_checksum : (Instr.wireReadResponse 0x00#8 0x1E#8 0x34#8 0x12#8 0x67#8).wellFormed = false := by
  decide
theorem test_wf_response_good : (Instr.wireReadResponse 0x5A#8 0x32#8 0xFF#8 0x00#8 0x8D#8).wellFormed = true := by decide

/-! ### Decoding (30_encoding.md R70 to R82; V-DEC, V-WF, V-RF, V-RESP) -/

/-- OP = 0001, RSV = 0000, ADDR = 00000000, VALUE = 1111111111111111. -/
theorem test_decode_attach : decodeWord 0b11111111111111110000000000000001#32 = .attach 0x00#8 0xFFFF#16 := by decide
/-- OP = 0010, the rest 0. -/
theorem test_decode_detach : decodeWord 0b00000000000000000000000000000010#32 = .detach 0x00#8 0x0000#16 := by decide
/-- OP = 0011, ADDR = 0x1E, VALUE = 0x1234. -/
theorem test_decode_writeReg : decodeWord 0b00010010001101000001111000000011#32 = .writeReg 0x1E#8 0x1234#16 := by decide
/-- OP = 0100, ADDR = 0x1E. -/
theorem test_decode_readReg : decodeWord 0b00000000000000000001111000000100#32 = .readReg 0x1E#8 0x0000#16 := by decide
/-- OP = 0100, the rest 0. -/
theorem test_decode_readModel : decodeWord 0b00000000000000000000000000000100#32 = .readModel := by decide
/-- `READ_REG` of address 0 with a VALUE that is ignored. -/
theorem test_decode_readReg_value : decodeWord 0x80000004#32 = .readReg 0x00#8 0x8000#16 := by decide
/-- RSV = 0001 makes the word illegal. -/
theorem test_decode_rsv : decodeWord 0b00000000000000000000000000010011#32 = .illegal 0x00000013#32 := by decide
/-- The reserved opcodes 0, 5 and 15. -/
theorem test_decode_reserved_op :
    decodeWord 0x00000000#32 = .illegal 0x00000000#32 ∧ decodeWord 0x00000005#32 = .illegal 0x00000005#32 ∧
      decodeWord 0x00001E0F#32 = .illegal 0x00001E0F#32 := by decide
/-- V-WF: the checksum wraps to 0. -/
theorem test_decode_writeRequest :
    decodeFrame [0x96#8, 0x00#8, 0x00#8, 0x02#8, 0xFE#8, 0x00#8, 0x00#8] =
      .ok (.wireWriteRequest 0x00#8 0xFE#8 0x00#8 0x00#8) := by rfl
/-- V-RF. -/
theorem test_decode_readRequest :
    decodeFrame [0x96#8, 0x00#8, 0xFF#8, 0x00#8, 0xFF#8] = .ok (.wireReadRequest 0xFF#8 0xFF#8) := by rfl
/-- V-RESP: the checksum wraps, and it covers the mystery byte. -/
theorem test_decode_response :
    decodeFrame [0x69#8, 0xFF#8, 0xFF#8, 0x02#8, 0xFF#8, 0xFF#8, 0xFE#8] =
      .ok (.wireReadResponse 0xFF#8 0xFF#8 0xFF#8 0xFF#8 0xFE#8) := by rfl
/-- Each check of a frame rejects by its name (30_encoding.md R81, R82). -/
theorem test_decode_rejects :
    decodeFrame [0x96#8, 0x00#8, 0x1E#8, 0x02#8, 0x34#8, 0x12#8] = .error .byteCount ∧
      decodeFrame [0x68#8, 0x00#8, 0x1E#8, 0x02#8, 0x34#8, 0x12#8, 0x66#8] = .error .leader ∧
      decodeFrame [0x96#8, 0x01#8, 0x1E#8, 0x00#8, 0x1E#8] = .error .constant ∧
      decodeFrame [0x69#8, 0x00#8, 0x1E#8, 0x03#8, 0x34#8, 0x12#8, 0x67#8] = .error .length ∧
      decodeFrame [0x69#8, 0x00#8, 0x1E#8, 0x02#8, 0x34#8, 0x12#8, 0x67#8] = .error .checksum := ⟨rfl, rfl, rfl, rfl, rfl⟩
/-- The opcode table's numbering: a frame's byte 0 is the least significant. -/
theorem test_decode_table_words :
    decodeTableWord 32 0x12341E03 = some (.writeReg 0x1E#8 0x1234#16) ∧
      decodeTableWord 40 0x1E001E0096 = some (.wireReadRequest 0x1E#8 0x1E#8) ∧
      decodeTableWord 56 0x661234021E0096 = some (.wireWriteRequest 0x1E#8 0x34#8 0x12#8 0x66#8) ∧
      decodeTableWord 56 0x661234021E0069 = some (.wireReadResponse 0x00#8 0x1E#8 0x34#8 0x12#8 0x66#8) := by decide

/-! ### The assembler (30_encoding.md R83) -/

theorem test_assemble : assemble (.writeReg 0x1E 0x1234) = some 0x12341E03#32 ∧ assemble (.readReg 256) = none := by decide

/-! ### The framer and the wire (V-CKS, V-TX1, V-WF) -/

theorem test_cks : cks [0x00#8, 0xFF#8, 0x02#8, 0xFF#8, 0xFF#8] = 0xFF#8 ∧ cks [0x80#8, 0x80#8] = 0x00#8 ∧ cks [] = 0x00#8 := by
  decide
theorem test_writeFrame : writeFrame 0x80#8 0x8080#16 = ⟨0x96#8, 0x00#8, 0x80#8, 0x02#8, 0x80#8, 0x80#8, 0x82#8⟩ := by decide
theorem test_character :
    (List.range 10).map (charLevel tc1 0x96#8) = [.H, .H, .L, .L, .H, .L, .H, .H, .L, .L] := by decide
/-- V-RESP: the echoed length is checked even where the checksum is right. -/
theorem test_validate_length :
    validateFrame ⟨0x69#8, 0x00#8, 0x1E#8, 0x03#8, 0x34#8, 0x12#8, 0x67#8⟩ 0x1E#8 false = .corruptResponse := by decide
theorem test_validate_good :
    validateFrame ⟨0x69#8, 0x00#8, 0x11#8, 0x02#8, 0xEF#8, 0xBE#8, 0xC0#8⟩ 0x11#8 false = .ok := by decide

/-! ### One step of each instruction (V-STATUS, V-CMD, V-RD) -/

theorem test_attach_accepted :
    nextHas (fun t => statusWord t == 0x01#32) (step (idleState false [writeInput 0#2 0x1#32 .H])) = true := by decide
/-- V-STATUS 2: a completion wins over the clearing of `DONE` in the same cycle. -/
theorem test_attach_set_wins :
    nextHas (fun t => statusWord t == 0x22#32)
      (step { execState .attach with inputs := [writeInput 1#2 0x2#32 .H] }) = true := by decide
theorem test_detach_releases :
    nextHas (fun t => statusWord t == 0x02#32 && lineDrive t == ⟨false, .L⟩) (step (busyState .exec .detach 0)) = true := by
  decide
theorem test_illegal_result :
    nextHas (fun t => statusWord t == 0x16#32) (step (execState .illegal)) = true := by decide
theorem test_writeReg_detached :
    nextHas (fun t => statusWord t == 0x12#32) (step (execState .writeReg)) = true := by decide
/-- V-TX2: the first cycle drives the lead-in. -/
theorem test_writeReg_accepted :
    nextHas (fun t => lineDrive t == ⟨true, .L⟩ && t.txbuf.b6 == 0x66#8)
      (step (idleState true [writeInput 0#2 0x12341E03#32 .H])) = true := by decide
/-- V-RD row 2: a released line that reads H. -/
theorem test_readReg_absent :
    nextHas (fun t => statusWord t == 0x26#32) (step { busyState .presence .readReg 16 with sync2 := .H }) = true := by decide
/-- R97, R180: a start bit that began at `W0-3` gives no L-then-H pair in the window; one that began at `W0-2` gives one at `W0`. -/
theorem test_start_bit_before_window_missed :
    nextHas (fun t => t.phase == .rxWait) (step { busyState .rxWait .readReg 0 with sprev := .H, sync2 := .H }) = true ∧
      nextHas (fun t => t.phase == .rxBits) (step { busyState .rxWait .readReg 0 with sprev := .L, sync2 := .H }) = true := by
  decide
theorem test_readReg_good :
    nextHas (fun t => statusWord t == 0x22#32 && t.rdata == 0x1234#16) (step (checkingState .H 15)) = true := by decide
theorem test_readModel_frame :
    nextHas (fun t => txFrame t == [0x96#8, 0x00#8, 0x00#8, 0x00#8, 0x00#8])
      (step (idleState true [writeInput 0#2 0x4#32 .H])) = true := by decide
/-- V-STATUS 4: an overrun. -/
theorem test_overrun :
    nextHas (fun t => statusWord t == 0x61#32 && t.op == .readReg)
      (step { readingState 0 with inputs := [writeInput 0#2 0x3#32 .H] }) = true := by decide
/-- V-CMD: the write reaches a faithful servo in the last cycle of its frame. -/
theorem test_wireWriteRequest :
    nextHas (fun t => statusWord t == 0x22#32 && servoRead t.servo.regs 0x1E#8 == 0x1234#16) (step (writingState 2271)) = true := by
  decide
/-- V-RX1: the servo's reply starts with the end of the request. -/
theorem test_wireReadRequest :
    nextHas (fun t => t.phase == .presence && t.servo.reply ==
        some ⟨0, ⟨0x69#8, 0x5A#8, 0x1E#8, 0x02#8, 0x34#8, 0x12#8, 0xC0#8⟩⟩) (step (readingState 1631)) = true := by decide
/-- V-RD row 5: the window closes on a low line. -/
theorem test_wireReadResponse_no_pullup :
    nextHas (fun t => statusWord t == 0x2A#32 && t.rdata == 0x0000#16) (step (checkingState .L 127)) = true := by decide
/-- V-STATUS 8. -/
theorem test_reset_cycle :
    nextHas (fun t => statusWord t == 0x00#32 && lineDrive t == ⟨false, .L⟩)
      (step { writingState 500 with inputs := [resetInput .H] }) = true := by decide

/-- 70_reset_and_hazards.md R171: a reset cycle starts the block from any power-on state. -/
theorem test_reset_from_any_state :
    nextHas (fun t => statusWord t == 0x00#32)
      (step { writingState 500 with err := 7#3, inputs := [resetInput .H] }) = true := by decide
/-- 10_state.md R24: the read data is 0 in a cycle with a write. -/
theorem test_busRdata :
    busRdata { busyState .exec .attach 0 with inputs := [readInput 1#2 .L] } = 0x21#32 ∧
      busRdata { busyState .exec .attach 0 with inputs := [writeInput 1#2 0x0#32 .L] } = 0x00#32 := by decide

/-! ### The host's entry points -/

theorem test_withFetchWord_command :
    fetch (State.reset.withFetchWord 32 0x1) = some (.attach 0x00#8 0x0000#16) ∧
      nextHas (fun t => t.busy && t.op == .attach) (step (State.reset.withFetchWord 32 0x1)) = true := by decide
theorem test_withFetchWord_frame :
    fetch (State.reset.withFetchWord 56 0x661234021E0069) =
        some (.wireReadResponse 0x00#8 0x1E#8 0x34#8 0x12#8 0x66#8) ∧
      nextHas (fun t => t.busy) (step (State.reset.withFetchWord 56 0x661234021E0069)) = true := by decide

/-! ### Witnesses: each statement's hypotheses hold together in a concrete state -/

theorem tc1_runnable (s : State) (hc : s.cfg = tc1) (he : s.err = 0#3) : Runnable s := by
  rw [Runnable, hc, he]; decide

theorem witness_DecodeEncodeRoundTrip :
    [Instr.attach 0xFF#8 0xFFFF#16, .detach 0x00#8 0x0000#16, .writeReg 0x1E#8 0x1234#16, .readReg 0x00#8 0x0001#16,
      .readReg 0xFF#8 0x0000#16, .readModel, .illegal 0x00000000#32, .illegal 0xFFFFFFF4#32,
      .wireWriteRequest 0x1E#8 0x34#8 0x12#8 0x66#8, .wireReadRequest 0x1E#8 0x1E#8,
      .wireReadResponse 0x5A#8 0x32#8 0xFF#8 0x00#8 0x8D#8].all Instr.wellFormed = true := by decide

theorem witness_EncodeDecodeRoundTrip :
    decode (.word 0xFFFF0001#32) = .ok (.attach 0x00#8 0xFFFF#16) ∧
      decode (.frame [0x96#8, 0x00#8, 0x1E#8, 0x00#8, 0x1E#8]) = .ok (.wireReadRequest 0x1E#8 0x1E#8) := ⟨rfl, rfl⟩

/-- A command fetched from the bus, one fetched from the latched registers, and a cycle that fetches none. -/
theorem witness_StepRunsTheFetchedInstruction :
    (Runnable (issuing 0x1#32 .absent) ∧ (currentInput (issuing 0x1#32 .absent)).rst = false ∧
      (issuing 0x1#32 .absent).busy = false ∧ (currentInput (issuing 0x1#32 .absent)).writesCmd = true ∧
      fetch (issuing 0x1#32 .absent) = some (.attach 0x00#8 0x0000#16)) ∧
    (Runnable (writingState 0) ∧ (currentInput (writingState 0)).rst = false ∧ (writingState 0).busy = true ∧
      fetch (writingState 0) = some (.wireWriteRequest 0x1E#8 0x34#8 0x12#8 0x66#8)) ∧
    (Runnable (idleState false [idleInput .H]) ∧ (currentInput (idleState false [idleInput .H])).rst = false ∧
      fetch (idleState false [idleInput .H]) = none ∧ (idleState false [idleInput .H]).phase = .idle) :=
  ⟨⟨tc1_runnable _ rfl rfl, rfl, rfl, rfl, rfl⟩, ⟨tc1_runnable _ rfl rfl, rfl, rfl, rfl⟩, tc1_runnable _ rfl rfl, rfl, rfl, rfl⟩

/-- A write and a read being sent, a response received, and a command in `EXEC`. -/
theorem witness_RunningInstructionIsTheLatchedCommand :
    (Inv (writingState 0) ∧ (writingState 0).busy = true ∧ (writingState 0).phase = .tx ∧ (writingState 0).op = .writeReg) ∧
    (Inv (readingState 1631) ∧ (readingState 1631).busy = true ∧ (readingState 1631).phase = .tx ∧
      (readingState 1631).op = .readReg) ∧
    (Inv (checkingState .L 127) ∧ (checkingState .L 127).busy = true ∧ (checkingState .L 127).phase = .pullup ∧
      decodeResponse (checkingState .L 127).rxbuf.bytes = .ok (.wireReadResponse 0x00#8 0x1E#8 0x34#8 0x12#8 0x66#8)) ∧
    (Inv (execState .readReg) ∧ (execState .readReg).busy = true ∧ (execState .readReg).phase = .exec ∧
      (execState .readReg).op = .readReg ∧ (execState .readReg).addr = 0x00#8 ∧ (execState .readReg).value = 0x0000#16) :=
  ⟨⟨⟨by decide, by decide, by decide, by decide, rfl, rfl, by decide, .inl ⟨rfl, rfl, by decide⟩⟩, rfl, rfl, rfl⟩,
    ⟨⟨by decide, by decide, by decide, by decide, rfl, rfl, by decide, .inr ⟨rfl, rfl, by decide⟩⟩, rfl, rfl, rfl⟩,
    ⟨⟨by decide, by decide, by decide, by decide, ⟨rfl, rfl, rfl⟩, by decide⟩, rfl, rfl, rfl⟩,
    ⟨by decide, by decide, by decide, by decide, rfl, rfl, fun _ => rfl⟩, rfl, rfl, rfl, rfl, rfl⟩

theorem witness_StepIsTheCycleStep : Runnable State.reset ∧ Runnable { State.reset with err := 5#3 } :=
  ⟨⟨by decide, by decide⟩, by decide, by decide⟩

theorem witness_StepStopsOnlyThere :
    (State.resetWith { tc1 with bitCycles := 31 }).cfg.valid = false ∧
    ((idleState false [resetInput .H]).cfg.valid = true ∧ (currentInput (idleState false [resetInput .H])).rst = true) ∧
    ({ idleState false [idleInput .H] with err := 6#3 }.cfg.valid = true ∧
      (currentInput { idleState false [idleInput .H] with err := 6#3 }).rst = false ∧
      5#3 < { idleState false [idleInput .H] with err := 6#3 }.err) ∧
    Runnable { State.resetWith least with err := 5#3 } := by
  refine ⟨by decide, by decide, by decide, by decide, by decide⟩

/-- For `ExecCommandsAreAccepted`, `DetachedReadOrWriteIsAccepted`, `AttachedWriteIsAccepted` and `AttachedReadIsAccepted`. -/
theorem witness_Accepted (attached : Bool) :
    (idleState attached []).busy = false ∧ (idleState attached []).phase = .idle ∧
      (idleState attached []).attached = attached := ⟨rfl, rfl, rfl⟩

theorem witness_AttachedReadIsAccepted :
    (idleState true []).busy = false ∧ (idleState true []).phase = .idle ∧ (idleState true []).attached = true ∧
      (Instr.readReg 0xFF#8 0xFFFF#16 = .readReg 0xFF#8 0xFFFF#16 ∨
        (Instr.readReg 0xFF#8 0xFFFF#16 = .readModel ∧ 0xFF#8 = 0x00#8 ∧ 0xFFFF#16 = 0x0000#16)) ∧
      (Instr.readModel = .readReg 0x00#8 0x0000#16 ∨ (Instr.readModel = .readModel ∧ 0x00#8 = 0x00#8 ∧ 0x0000#16 = 0x0000#16)) :=
  ⟨rfl, rfl, rfl, .inl rfl, .inr ⟨rfl, rfl, rfl⟩⟩

/-- For `AttachExecutes`, `DetachExecutes` and `IllegalCommandExecutes`. -/
theorem witness_Executes (op : Op) :
    (execState op).busy = true ∧ (execState op).phase = .exec ∧ (execState op).op = op := ⟨rfl, rfl, rfl⟩

theorem witness_NotAttachedExecutes :
    (execState .writeReg).busy = true ∧ (execState .writeReg).phase = .exec ∧
      ((∃ addr value, Instr.writeReg 0x1E#8 0x1234#16 = .writeReg addr value) ∧ (execState .writeReg).op = .writeReg ∨
        IsRead (.writeReg 0x1E#8 0x1234#16) ∧ (execState .writeReg).op = .readReg) ∧
      (execState .readReg).busy = true ∧ (execState .readReg).phase = .exec ∧
      ((∃ addr value, Instr.readModel = .writeReg addr value) ∧ (execState .readReg).op = .writeReg ∨
        IsRead .readModel ∧ (execState .readReg).op = .readReg) :=
  ⟨rfl, rfl, .inl ⟨⟨_, _, rfl⟩, rfl⟩, rfl, rfl, .inr ⟨.inl rfl, rfl⟩⟩

/-- The first cycle, the last but one and the last of a frame, for `WriteRegSends` and `WireWriteRequestRuns`. -/
theorem witness_WriteRegSends :
    ((writingState 0).busy = true ∧ (writingState 0).phase = .tx ∧ (writingState 0).op = .writeReg ∧
      (writingState 0).txlen = 7#3 ∧ (writingState 0).servo.regs.wf = true ∧
      (writingState 0).t ≠ (writingState 0).cfg.bitCycles * 71 - 1) ∧
    (writingState 2270).t ≠ (writingState 2270).cfg.bitCycles * 71 - 1 ∧
    ((writingState 2271).busy = true ∧ (writingState 2271).phase = .tx ∧ (writingState 2271).op = .writeReg ∧
      (writingState 2271).txlen = 7#3 ∧ (writingState 2271).servo.regs.wf = true ∧
      (writingState 2271).t = (writingState 2271).cfg.bitCycles * 71 - 1 ∧
      (writingState 2271).servo.far = .faithful 0 0 0x00#8) := by decide

/-- The first cycle, the last but one and the last of a frame, for `ReadRegSends` and `WireReadRequestRuns`. -/
theorem witness_ReadRegSends :
    IsRead (.readReg 0x1E#8 0x0000#16) ∧ IsRead .readModel ∧
    ((readingState 0).busy = true ∧ (readingState 0).phase = .tx ∧ (readingState 0).op = .readReg ∧
      (readingState 0).txlen = 5#3 ∧ (readingState 0).t ≠ (readingState 0).cfg.bitCycles * 51 - 1) ∧
    (readingState 1630).t ≠ (readingState 1630).cfg.bitCycles * 51 - 1 ∧
    ((readingState 1631).busy = true ∧ (readingState 1631).phase = .tx ∧ (readingState 1631).op = .readReg ∧
      (readingState 1631).txlen = 5#3 ∧ (readingState 1631).t = (readingState 1631).cfg.bitCycles * 51 - 1 ∧
      (readingState 1631).servo.far = .faithful 0 0 0x5A#8) :=
  ⟨.inr ⟨_, _, rfl⟩, .inl rfl, by decide, by decide, by decide⟩

/-- For `PresenceIsSampledOnce`, `SettleWaits`, `StartEdgeOrTimeout` and `PullupIsChecked`, in the cycle that each window ends with and
the one before. -/
theorem witness_Receiving :
    ((busyState .presence .readReg 16).busy = true ∧ (busyState .presence .readReg 16).phase = .presence ∧
      (busyState .presence .readReg 16).t = (busyState .presence .readReg 16).cfg.presenceDelayCycles ∧
      (busyState .presence .readReg 15).t ≠ (busyState .presence .readReg 15).cfg.presenceDelayCycles) ∧
    ((busyState .settle .readReg 99).busy = true ∧ (busyState .settle .readReg 99).phase = .settle ∧
      (busyState .settle .readReg 99).t = (busyState .settle .readReg 99).cfg.settleCycles - 1 ∧
      (busyState .settle .readReg 98).t ≠ (busyState .settle .readReg 98).cfg.settleCycles - 1) ∧
    ((busyState .rxWait .readReg 399).busy = true ∧ (busyState .rxWait .readReg 399).phase = .rxWait ∧
      (busyState .rxWait .readReg 399).t = (busyState .rxWait .readReg 399).cfg.startTimeoutCycles - 1 ∧
      (busyState .rxWait .readReg 398).t ≠ (busyState .rxWait .readReg 398).cfg.startTimeoutCycles - 1) ∧
    ((checkingState .L 127).busy = true ∧ (checkingState .L 127).phase = .pullup ∧ (checkingState .L 127).op = .readReg ∧
      (checkingState .L 127).t = (checkingState .L 127).cfg.pullupWindowCycles - 1 ∧ (checkingState .H 127).sync2 = .H ∧
      (checkingState .L 126).t ≠ (checkingState .L 126).cfg.pullupWindowCycles - 1) := by decide

/-- The first and the last data bit's sample point, the stop bit's, and a cycle that is none. -/
theorem witness_BitsAreSampled :
    32 ≤ tc1.bitCycles ∧ (busyState .rxBits .readReg 48).busy = true ∧ (busyState .rxBits .readReg 48).phase = .rxBits ∧
    (busyState .rxBits .readReg 48).t = tc1.bitCycles + tc1.halfCycles + 0 * tc1.bitCycles ∧
    (busyState .rxBits .readReg 272).t = tc1.bitCycles + tc1.halfCycles + 7 * tc1.bitCycles ∧
    (busyState .rxBits .readReg 304).t = tc1.bitCycles + tc1.halfCycles + 8 * tc1.bitCycles ∧
    (∀ j, (busyState .rxBits .readReg 47).t ≠ tc1.bitCycles + tc1.halfCycles + j * tc1.bitCycles) := by
  refine ⟨by decide, rfl, rfl, rfl, rfl, rfl, fun j => ?_⟩
  show 47 ≠ 32 + 16 + j * 32
  omega

/-- A received response whose echoed address is the requested one, and one whose is not. -/
theorem witness_WireReadResponseRuns :
    (checkingState .H 0).busy = true ∧ (checkingState .H 0).phase = .pullup ∧ (checkingState .H 0).op = .readReg ∧
      (0x1E#8 = (checkingState .H 0).addr ∧ (checkingState .H 0).ferr = false) ∧
      ¬(0x1F#8 = (checkingState .H 0).addr ∧ (checkingState .H 0).ferr = false) := by decide

/-- A window with a start edge in its first cycle, for the first and the last byte. -/
def edgeState (rxidx : BitVec 3) : State := { busyState .rxWait .readReg 0 with sprev := .L, sync2 := .H, rxidx := rxidx }

/-- A window of three cycles with no start edge. -/
def timeoutState : State :=
  { busyState .rxWait .readReg 0 with cfg := least, sprev := .L, sync2 := .L, sync1 := .L, inputs := [idleInput .L] }

theorem witness_ReceptionIsRxByte_byte (rxidx : BitVec 3) (h : rxidx ≤ 6#3) :
    Runnable (edgeState rxidx) ∧ (edgeState rxidx).busy = true ∧ (edgeState rxidx).phase = .rxWait ∧
      (edgeState rxidx).t = 0 ∧ (edgeState rxidx).rxidx ≤ 6#3 ∧ (edgeState rxidx).op = .readReg ∧
      (edgeState rxidx).servo.far = .input ∧
      ∃ b stopHigh, rxByte (edgeState rxidx).cfg (samples (edgeState rxidx)) = .byte b stopHigh 0 ∧
        Quiet (0 + (edgeState rxidx).cfg.samplePoint 8 + 1) (edgeState rxidx) := by
  refine ⟨tc1_runnable _ rfl rfl, rfl, rfl, rfl, h, rfl, rfl, _, _, rfl, ?_⟩
  intro x hx
  have hx := List.mem_of_mem_take hx
  rw [List.mem_singleton.mp hx]
  rfl

theorem witness_ReceptionIsRxByte_timeout :
    Runnable timeoutState ∧ timeoutState.busy = true ∧ timeoutState.phase = .rxWait ∧ timeoutState.t = 0 ∧
      timeoutState.rxidx ≤ 6#3 ∧ timeoutState.op = .readReg ∧ timeoutState.servo.far = .input ∧
      rxByte timeoutState.cfg (samples timeoutState) = .timeout ∧ Quiet timeoutState.cfg.startTimeoutCycles timeoutState := by
  refine ⟨⟨by decide, by decide⟩, rfl, rfl, rfl, by decide, rfl, rfl, by decide, ?_⟩
  intro x hx
  have hx := List.mem_of_mem_take hx
  rw [List.mem_singleton.mp hx]
  rfl

theorem witness_IgnoredWritesHaveNoEffect : ∃ word : BitVec 2, word = 2#2 ∨ word = 3#2 := ⟨3#2, .inr rfl⟩

/-- For `OverrunOnlySetsOvr`, in the very cycle in which the command completes, and for `StatusWriteClearsItsBits`. -/
theorem witness_OverrunOnlySetsOvr :
    Runnable (writingState 2271) ∧ (writingState 2271).busy = true ∧
      (phaseStep { writingState 2271 with inputs := [idleInput .H] }).completed = true ∧
      (phaseStep { writingState 2270 with inputs := [idleInput .H] }).completed = false :=
  ⟨tc1_runnable _ rfl rfl, rfl, rfl, rfl⟩

/-- A reset in the last cycle of a write frame, and one that finds an impossible result code. -/
theorem witness_ResetCycleLeaves :
    ({ writingState 2271 with inputs := [resetInput .H] }.cfg.valid = true ∧
      (currentInput { writingState 2271 with inputs := [resetInput .H] }).rst = true ∧
      (writingState 2271).phase = .tx ∧ txEnds (writingState 2271) = true) ∧
    ({ busyState .pullup .illegal 9 with err := 7#3, inputs := [resetInput .L] }.cfg.valid = true ∧
      (currentInput { busyState .pullup .illegal 9 with err := 7#3, inputs := [resetInput .L] }).rst = true) := by decide

/-- For `ValidationDetectsOneByte` and its last clause: the sum kept, with the echoes kept and with one changed. -/
theorem witness_ValidationKeptSum :
    0x5A#8 + 0x32#8 + 0x02#8 + 0xFE#8 + 0x01#8 = 0x5A#8 + 0x32#8 + 0x02#8 + 0xFF#8 + 0x00#8 ∧
      0x5B#8 + 0x31#8 + 0x02#8 + 0xFF#8 + 0x00#8 = 0x5A#8 + 0x32#8 + 0x02#8 + 0xFF#8 + 0x00#8 := by decide

theorem witness_ChecksumIsAnAccumulator : [0x01#8, 0xFF#8].Perm [0xFF#8, 0x01#8] := List.Perm.swap _ _ _

theorem witness_ValidationDetectsOneByte :
    validateFrame ⟨0x69#8, 0x5A#8, 0x32#8, 0x02#8, 0xFF#8, 0x00#8, 0x8D#8⟩ 0x32#8 false = .ok := by decide

theorem witness_ServoRegisterReadsBack : Memory.wf [(60, 0x34#8), (61, 0x12#8), (511, 0x01#8)] = true := by decide

/-- Every phase occurs in a state. -/
theorem witness_LineDriverFollowsThePhase (phase : Phase) : (busyState phase .readReg 0).phase = phase := rfl

theorem witness_FrameWaveform : 0 < tc1.bitCycles ∧ 31 < tc1.bitCycles := by decide

theorem witness_InvariantHoldsAtReset : least.valid = true ∧ tc1.valid = true := by decide

theorem inv_writing : Inv (writingState 2271) :=
  ⟨by decide, by decide, by decide, by decide, rfl, rfl, by decide, .inl ⟨rfl, rfl, by decide⟩⟩

theorem inv_issuing (w : Word) (far : FarEnd) : Inv (issuing w far) :=
  ⟨rfl, show 0#3 ≤ 5#3 by decide, fun h => absurd h (show ¬false = true by decide), rfl, rfl, rfl⟩

theorem quiet_issuing (n : Nat) (w : Word) (far : FarEnd) : Quiet n (issuing w far) := by
  intro x hx
  have hx := List.mem_of_mem_take hx
  rw [List.mem_singleton.mp hx]
  rfl

/-- A busy state and an idle one that accepts. -/
theorem witness_StepKeepsInvariant :
    (Inv (writingState 2271) ∧ ∃ t, step (writingState 2271) = .next t) ∧
      (Inv (issuing 0x1E04#32 .absent) ∧ ∃ t, step (issuing 0x1E04#32 .absent) = .next t) :=
  ⟨⟨inv_writing, _, rfl⟩, inv_issuing _ _, _, rfl⟩

/-- The attachment set, cleared by `DETACH`, cleared by a reset, and kept. -/
theorem witness_AttachedFollowsAttachAndDetach :
    nextHas (fun t => t.attached) (step (execState .attach)) = true ∧
      nextHas (fun t => !t.attached) (step (busyState .exec .detach 0)) = true ∧
      nextHas (fun t => !t.attached) (step { writingState 9 with inputs := [resetInput .H] }) = true ∧
      nextHas (fun t => t.attached) (step (writingState 9)) = true := by decide

/-- A good read, and a read in which the pull-up window closes. -/
theorem witness_RdataFollowsGoodReads :
    (∃ t, step (checkingState .H 0) = .next t ∧ (currentInput (checkingState .H 0)).rst = false ∧
      (checkingState .H 0).phase = .pullup ∧ (checkingState .H 0).op = .readReg ∧ (checkingState .H 0).sync2 = .H ∧
      validate (checkingState .H 0) = .ok) ∧
    ∃ t, step (checkingState .L 127) = .next t ∧ (currentInput (checkingState .L 127)).rst = false ∧
      (checkingState .L 127).sync2 ≠ .H := ⟨⟨_, rfl, rfl, rfl, rfl, rfl, by decide⟩, _, rfl, rfl, by decide⟩

theorem witness_EveryCommandCompletes :
    Inv (writingState 2271) ∧ (writingState 2271).busy = true ∧ Quiet (writingState 2271).cfg.maxBusyCycles (writingState 2271) := by
  refine ⟨inv_writing, rfl, ?_⟩
  intro x hx
  have hx := List.mem_of_mem_take hx
  rw [List.mem_singleton.mp hx]
  rfl

/-- For `WriteRegSendsItsFrame` and `WriteRegReachesTheServo`. -/
theorem witness_WriteRegSendsItsFrame :
    Inv (issuing 0x12341E03#32 (.faithful 0 0 0x00#8)) ∧ (issuing 0x12341E03#32 (.faithful 0 0 0x00#8)).attached = true ∧
      (issuing 0x12341E03#32 (.faithful 0 0 0x00#8)).busy = false ∧
      fetch (issuing 0x12341E03#32 (.faithful 0 0 0x00#8)) = some (.writeReg 0x1E#8 0x1234#16) ∧
      Quiet (71 * tc1.bitCycles + 1) (issuing 0x12341E03#32 (.faithful 0 0 0x00#8)) ∧
      (issuing 0x12341E03#32 (.faithful 0 0 0x00#8)).servo.far = .faithful 0 0 0x00#8 :=
  ⟨inv_issuing _ _, rfl, rfl, rfl, quiet_issuing _ _ _, rfl⟩

theorem witness_AbsentServoIsDetected :
    Inv (issuing 0x4#32 .absent) ∧ (issuing 0x4#32 .absent).attached = true ∧ (issuing 0x4#32 .absent).busy = false ∧
      IsRead .readModel ∧ fetch (issuing 0x4#32 .absent) = some .readModel ∧
      Quiet (51 * tc1.bitCycles + tc1.presenceDelayCycles + 2) (issuing 0x4#32 .absent) ∧
      (issuing 0x4#32 .absent).servo.far = .absent :=
  ⟨inv_issuing _ _, rfl, rfl, .inl rfl, rfl, quiet_issuing _ _ _, rfl⟩

/-- The latency and the pull-up delay at the largest values that TC1's windows admit (V-TIME). -/
theorem witness_FaithfulReadReturnsTheRegister :
    (∃ value, Instr.readReg 0x1E#8 0x0000#16 = .readReg 0x1E#8 value) ∧
      Inv (issuing 0x1E04#32 (.faithful 397 112 0x00#8)) ∧ (issuing 0x1E04#32 (.faithful 397 112 0x00#8)).attached = true ∧
      (issuing 0x1E04#32 (.faithful 397 112 0x00#8)).busy = false ∧
      fetch (issuing 0x1E04#32 (.faithful 397 112 0x00#8)) = some (.readReg 0x1E#8 0x0000#16) ∧
      (issuing 0x1E04#32 (.faithful 397 112 0x00#8)).servo.far = .faithful 397 112 0x00#8 ∧
      397 + 3 ≤ tc1.startTimeoutCycles ∧ tc1.bitCycles ≤ tc1.startTimeoutCycles + tc1.halfCycles ∧
      112 + tc1.bitCycles ≤ tc1.pullupWindowCycles + tc1.halfCycles ∧
      Quiet (121 * tc1.bitCycles + tc1.presenceDelayCycles + tc1.settleCycles + 397 + 112 + 4 + 1)
        (issuing 0x1E04#32 (.faithful 397 112 0x00#8)) :=
  ⟨⟨_, rfl⟩, inv_issuing _ _, rfl, rfl, rfl, rfl, by decide, by decide, by decide, quiet_issuing _ _ _⟩

/-- The latency at the largest value TC1's window admits. -/
theorem witness_MissingPullupIsDetected :
    IsRead (.readReg 0x1E#8 0x0000#16) ∧ Inv (issuing 0x1E04#32 (.noPullup 397 0x00#8)) ∧
      (issuing 0x1E04#32 (.noPullup 397 0x00#8)).attached = true ∧ (issuing 0x1E04#32 (.noPullup 397 0x00#8)).busy = false ∧
      fetch (issuing 0x1E04#32 (.noPullup 397 0x00#8)) = some (.readReg 0x1E#8 0x0000#16) ∧
      (issuing 0x1E04#32 (.noPullup 397 0x00#8)).servo.far = .noPullup 397 0x00#8 ∧
      397 + 3 ≤ tc1.startTimeoutCycles ∧ tc1.bitCycles ≤ tc1.startTimeoutCycles + tc1.halfCycles ∧
      Quiet (120 * tc1.bitCycles + tc1.presenceDelayCycles + tc1.settleCycles + tc1.halfCycles + tc1.pullupWindowCycles + 4 +
        397 + 1) (issuing 0x1E04#32 (.noPullup 397 0x00#8)) :=
  ⟨.inr ⟨_, _, rfl⟩, inv_issuing _ _, rfl, rfl, rfl, rfl, by decide, by decide, quiet_issuing _ _ _⟩

/-- An idle, attached block in front of a faithful servo that has taken `WRITE_REG 0x1E, 0x1234`. -/
def writtenState (inputs : List CycleInput) : State :=
  { idleState true inputs with
    done := true,
    servo := { far := .faithful 397 112 0x00#8, regs := [(60, 0x34#8), (61, 0x12#8)], reply := none } }

/-- The write; `witness_RoundTripLaw_gap` has the gap after it and the read. -/
theorem witness_RoundTripLaw :
    Inv (issuing 0x12341E03#32 (.faithful 397 112 0x00#8)) ∧ (issuing 0x12341E03#32 (.faithful 397 112 0x00#8)).attached = true ∧
      (issuing 0x12341E03#32 (.faithful 397 112 0x00#8)).busy = false ∧
      fetch (issuing 0x12341E03#32 (.faithful 397 112 0x00#8)) = some (.writeReg 0x1E#8 0x1234#16) ∧
      Quiet (71 * tc1.bitCycles + 1) (issuing 0x12341E03#32 (.faithful 397 112 0x00#8)) ∧
      (issuing 0x12341E03#32 (.faithful 397 112 0x00#8)).servo.far = .faithful 397 112 0x00#8 ∧
      397 + 3 ≤ tc1.startTimeoutCycles ∧ tc1.bitCycles ≤ tc1.startTimeoutCycles + tc1.halfCycles ∧
      112 + tc1.bitCycles ≤ tc1.pullupWindowCycles + tc1.halfCycles :=
  ⟨inv_issuing _ _, rfl, rfl, rfl, quiet_issuing _ _ _, rfl, by decide, by decide, by decide⟩

/-- A gap of two cycles in which an `ATTACH` is accepted and runs, and then a read that is fetched. -/
theorem witness_RoundTripLaw_gap :
    NoWriteTo 0x1E#8 2 (writtenState [writeInput 0#2 0x1#32 .H, idleInput .H, writeInput 0#2 0x1E04#32 .H]) ∧
      ∃ u, runCycles 2 (writtenState [writeInput 0#2 0x1#32 .H, idleInput .H, writeInput 0#2 0x1E04#32 .H]) = .next u ∧
        u.busy = false ∧ u.attached = true ∧ fetch u = some (.readReg 0x1E#8 0x0000#16) ∧ ∀ n, Quiet n u := by
  refine ⟨fun k u v hk hu _ hb hf => ?_, _, rfl, rfl, rfl, rfl, fun n x hx => ?_⟩
  · obtain rfl | rfl : k = 0 ∨ k = 1 := by omega
    · cases hu
      exact absurd (Option.some.inj hf) (by simp [show decodeWord 0x1#32 = .attach 0x00#8 0x0000#16 by decide, currentInput,
        writtenState, idleState, writeInput])
    · cases hu
      exact absurd hb (show ¬true = false by decide)
  · rw [List.mem_singleton.mp (List.mem_of_mem_take hx)]
    rfl

/-- An acceptance, a completion, a cleared `DONE`, and an idle cycle in which nothing happens. -/
theorem witness_StatusBitsFollowTheirEvents :
    (Inv (issuing 0x1#32 .absent) ∧ ∃ t, step (issuing 0x1#32 .absent) = .next t) ∧
      (Inv (writingState 2271) ∧ resultNow (writingState 2271) = some .ok ∧ ∃ t, step (writingState 2271) = .next t) ∧
      nextHas (fun t => !t.done && t.err == 3#3)
        (step { idleState true [writeInput 1#2 0x2#32 .H] with done := true, err := 3#3 }) = true ∧
      nextHas (fun t => t.done && t.err == 3#3) (step { idleState true [idleInput .H] with done := true, err := 3#3 }) = true :=
  ⟨⟨inv_issuing _ _, _, rfl⟩, ⟨inv_writing, rfl, _, rfl⟩, by decide, by decide⟩

/-- A driven and a released line. -/
theorem witness_WireIsResolved :
    (writingState 40).phase = .tx ∧ (busyState .presence .readReg 0).phase = .presence ∧
      (busyState .presence .readReg 0).servo.far = .input ∧ (issuing 0x1#32 .absent).servo.far = .absent ∧
      ∃ t, step (writingState 40) = .next t := ⟨rfl, rfl, rfl, rfl, _, rfl⟩

/-- A block in a read whose servo has been replying for `since` cycles, with `d = 5`. -/
def replyState (far : FarEnd) (since : Nat) : State :=
  { busyState .rxBits .readReg 0 with
    servo := { far := far, regs := [], reply := some ⟨since, ⟨0x69#8, 0x00#8, 0x1E#8, 0x02#8, 0x34#8, 0x12#8, 0x66#8⟩⟩ } }

/-- The last cycle before the reply, its first, the last of its last data bit and of its last stop bit, and the two levels after it. -/
theorem witness_ServoReplyWaveform :
    (∀ far since, (replyState far since).servo.reply =
        some ⟨since, ⟨0x69#8, 0x00#8, 0x1E#8, 0x02#8, 0x34#8, 0x12#8, 0x66#8⟩⟩ ∧ (replyState far since).servo.far = far) ∧
      121 < tc1.presenceDelayCycles + 1 + tc1.settleCycles + 5 ∧
      122 = tc1.presenceDelayCycles + 1 + tc1.settleCycles + 5 + tc1.bitCycles * (10 * 0) + 0 ∧
      2329 = 122 + tc1.bitCycles * (10 * 6 + 1 + 7) + 31 ∧ 2361 = 122 + tc1.bitCycles * (10 * 6 + 9) + 31 ∧
      122 + 70 * tc1.bitCycles = 2362 ∧
      envLevel (replyState (.faithful 5 7 0x00#8) 122) = .H ∧ envLevel (replyState (.faithful 5 7 0x00#8) 2368) = .L ∧
      envLevel (replyState (.faithful 5 7 0x00#8) 2369) = .H ∧ envLevel (replyState (.noPullup 5 0x00#8) 9999) = .L :=
  ⟨fun _ _ => ⟨rfl, rfl⟩, by decide, by decide, by decide, by decide, by decide, by decide, by decide, by decide, by decide⟩

/-- The host overruns the last cycle of a write in one of the two states. -/
theorem witness_HostCannotDisturbACommand :
    AgreeButBus (writingState 2271) { writingState 2271 with ovr := true, inputs := [writeInput 0#2 0x3#32 .L] } ∧
      (∀ k, k < 1 → ∃ u, runCycles k (writingState 2271) = .next u ∧ u.busy = true) ∧
      ∃ t, runCycles 1 (writingState 2271) = .next t := by
  refine ⟨⟨rfl, rfl⟩, fun k hk => ?_, _, rfl⟩
  obtain rfl : k = 0 := by omega
  exact ⟨_, rfl, rfl⟩

end Sys2Proof.Tests
end

section
/-!
The stops of a step (93_implementation_defined.md S6, S7; 60_exceptions.md R153): one equation for each branch of `step`, in the order in
which `step` asks.
-/

namespace Sys2Proof.Machine

/-- No instruction stops the machine: faults and refusals are raised by `step` alone. -/
theorem exec_runs (i : Instr) (s : State) : ∃ t, exec i s = .next t := by
  cases i <;> exact ⟨_, rfl⟩

/-- Log entry 7: the parameters are asked before `rst`. -/
theorem step_of_invalid_cfg {s : State} (hcfg : s.cfg.valid = false) : step s = .refused .parametersOutOfRange :=
  if_pos hcfg

/-- 60_exceptions.md R153: no premise on `err`, since `rst` wins over an impossible one (log entry 8). -/
theorem step_of_rst {s : State} (hcfg : s.cfg.valid = true) (hrst : (currentInput s).rst = true) :
    step s = .next (resetCycle s) := by
  simp [step, hcfg, hrst]

theorem step_of_impossible_err {s : State} (hcfg : s.cfg.valid = true) (hrst : (currentInput s).rst = false)
    (herr : 5#3 < s.err) : step s = .fault .errCodeNeverProduced := by
  simp [step, hcfg, hrst, herr]

theorem step_of_fetch_some {s : State} {i : Instr} (hs : Runnable s) (hrst : (currentInput s).rst = false)
    (hf : fetch s = some i) : step s = exec i s := by
  obtain ⟨hcfg, herr⟩ := hs
  simp [step, hcfg, hrst, BitVec.not_lt.mpr herr, hf]

theorem step_of_fetch_none {s : State} (hs : Runnable s) (hrst : (currentInput s).rst = false)
    (hf : fetch s = none) : step s = .next (cycleStep s) := by
  obtain ⟨hcfg, herr⟩ := hs
  simp [step, hcfg, hrst, BitVec.not_lt.mpr herr, hf]

/-- A runnable state is stopped by nothing: a reset cycle, an instruction's cycle and an idle cycle all have a next state. -/
theorem step_runs {s : State} (hs : Runnable s) : ∃ t, step s = .next t := by
  cases hrst : (currentInput s).rst with
  | true => exact ⟨_, step_of_rst hs.1 hrst⟩
  | false =>
    cases hf : fetch s with
    | none => exact ⟨_, step_of_fetch_none hs hrst hf⟩
    | some i => rw [step_of_fetch_some hs hrst hf]; exact exec_runs i s

/-- Settles O8: the equation of each stopping branch of `step`, and `step_runs` where neither check stops it. -/
theorem stepStopsOnlyThere : Obligations.StepStopsOnlyThere := by
  intro s
  refine ⟨step_of_invalid_cfg, fun hcfg hrst => ?_, step_of_impossible_err, step_runs⟩
  exact ⟨_, step_of_rst hcfg hrst⟩

end Sys2Proof.Machine
end

section
/-!
One step is one clock cycle (42_sequencer.md R128; log entries 1 and 11): whichever instruction `fetch` names, its meaning is `cycleStep`.
-/

namespace Sys2Proof.Machine

/-! ### What `fetch` and the instructions' meanings come to -/

/-- The meaning of a command word: the acceptance of that word in an idle block; in `EXEC` the step of the command, where it is the
latched one. -/
theorem exec_decodeWord (w : Word) (s : State) :
    ∃ ownExec : State → Progress, exec (decodeWord w) s = .next (commandCycle (acceptWord w) ownExec s) ∧
      (wordKind w = s.op → ownExec s = execStep s) := by
  unfold decodeWord acceptWord wordKind execStep
  split_ifs with hrsv h1 h2 h3 h4 hmodel
  · exact ⟨illegalStep, rfl, fun h => by rw [← h]⟩
  · exact ⟨attachStep, rfl, fun h => by rw [← h]⟩
  · exact ⟨detachStep, rfl, fun h => by rw [← h]⟩
  · exact ⟨notAttachedStep, rfl, fun h => by rw [← h]⟩
  · simp only [Bool.and_eq_true, beq_iff_eq] at hmodel
    rw [hmodel.1, hmodel.2]
    exact ⟨notAttachedStep, rfl, fun h => by rw [← h]⟩
  · exact ⟨notAttachedStep, rfl, fun h => by rw [← h]⟩
  · exact ⟨illegalStep, rfl, fun h => by rw [← h]⟩

/-- A busy block's latched command means one cycle, in `EXEC` and outside it. -/
theorem exec_latchedWord {s : State} (hb : s.busy = true) :
    exec (decodeWord (latchedWord s)) s = .next (cycleStep s) := by
  obtain ⟨ownExec, hexec, hown⟩ := exec_decodeWord (latchedWord s) s
  rw [hexec]
  by_cases hp : s.phase = .exec
  · rw [commandCycle_exec hb hp, hown (latchedWord_fields s).1]
    simp only [cycleStep, phaseStep, hp]
  · rw [commandCycle_busy hb hp]

/-- A request that stands in the transmit buffer means one cycle. -/
theorem exec_decodeRequest {s : State} {i : Instr} (h : decodeRequest (txFrame s) = .ok i) :
    exec i s = .next (cycleStep s) := by
  rcases decodeRequest_ok h with ⟨a, c, hf, rfl, -⟩ | ⟨a, lo, hi, c, hf, rfl, -⟩
  · show Host.Outcome.next (cycleStep (withReadRequest a c s)) = _
    rw [withReadRequest_self hf]
  · show Host.Outcome.next (cycleStep (withWriteRequest a lo hi c s)) = _
    rw [withWriteRequest_self hf]

/-- A response that stands in the receive buffer means one cycle. -/
theorem exec_decodeResponse {s : State} {i : Instr} (h : decodeResponse s.rxbuf.bytes = .ok i) :
    exec i s = .next (cycleStep s) := by
  obtain ⟨m, a, lo, hi, c, hf, rfl, -⟩ := decodeResponse_ok h
  show Host.Outcome.next (cycleStep (withResponse m a lo hi c s)) = _
  rw [withResponse_self hf]

theorem exec_running {s : State} (hb : s.busy = true) : exec (running s) s = .next (cycleStep s) := by
  unfold running
  split
  · split
    · next i hi => exact exec_decodeRequest hi
    · exact exec_latchedWord hb
  · split
    · next i hi => exact exec_decodeResponse hi
    · exact exec_latchedWord hb
  · exact exec_latchedWord hb

/-- An idle block's cycle with a write to `CMD` accepts the word after its phase step. -/
theorem exec_accepted {s : State} (hb : s.busy = false) (hw : (currentInput s).writesCmd = true) :
    exec (decodeWord (currentInput s).busWdata) s = .next (cycleStep s) := by
  obtain ⟨ownExec, hexec, -⟩ := exec_decodeWord (currentInput s).busWdata s
  simp only [CycleInput.writesCmd, Bool.and_eq_true, beq_iff_eq] at hw
  obtain ⟨hwrites, hword⟩ := hw
  simp [hexec, commandCycle, cycleStep, busWrite, hb, hwrites, hword]

/-- Whatever instruction is fetched, its meaning is the one clock cycle. -/
theorem exec_fetch {s : State} {i : Instr} (h : fetch s = some i) : exec i s = .next (cycleStep s) := by
  unfold fetch at h
  split_ifs at h with hb hw <;> cases h
  · exact exec_running hb
  · exact exec_accepted (by simpa using hb) hw

/-! ### What a step gives -/

theorem step_of_no_rst {s : State} (hs : Runnable s) (hrst : (currentInput s).rst = false) :
    step s = .next (cycleStep s) := by
  cases hf : fetch s with
  | none => exact step_of_fetch_none hs hrst hf
  | some i => rw [step_of_fetch_some hs hrst hf, exec_fetch hf]

/-- All a step that has a next state can be: a reset cycle, or the clock cycle of a runnable state. -/
theorem step_next {s t : State} (h : step s = .next t) :
    ((currentInput s).rst = true ∧ s.cfg.valid = true ∧ t = resetCycle s) ∨
      ((currentInput s).rst = false ∧ Runnable s ∧ t = cycleStep s) := by
  cases hcfg : s.cfg.valid with
  | false => rw [step_of_invalid_cfg hcfg] at h; cases h
  | true =>
    cases hrst : (currentInput s).rst with
    | true => rw [step_of_rst hcfg hrst] at h; cases h; exact .inl ⟨rfl, rfl, rfl⟩
    | false =>
      by_cases herr : 5#3 < s.err
      · rw [step_of_impossible_err hcfg hrst herr] at h; cases h
      · have hs : Runnable s := ⟨hcfg, BitVec.not_lt.mp herr⟩
        rw [step_of_no_rst hs hrst] at h; cases h; exact .inr ⟨rfl, hs, rfl⟩

end Sys2Proof.Machine
end

section
/-!
The registers after the phase step and after the bus write, one law for each register: the statements about single registers cite
these and do not walk through the cycle again.
-/

namespace Sys2Proof.Machine

/-! ### The bus write -/

/-- The four things a cycle's bus access can come to: an overrun, an acceptance, the clearing of status bits, or nothing. -/
theorem busWrite_cases (s : State) (p : Progress) :
    ((currentInput s).writesCmd = true ∧ s.busy = true ∧ busWrite s p = { p.next with ovr := true }) ∨
    ((currentInput s).writesCmd = true ∧ s.busy = false ∧ busWrite s p = acceptWord (currentInput s).busWdata p.next) ∨
    ((currentInput s).writesCmd = false ∧ ((currentInput s).writes = true ∧ (currentInput s).busWord = 1#2) ∧
      busWrite s p = writeStatus p.completed (currentInput s).busWdata p.next) ∨
    ((currentInput s).writesCmd = false ∧ ¬((currentInput s).writes = true ∧ (currentInput s).busWord = 1#2) ∧
      busWrite s p = p.next) := by
  unfold busWrite CycleInput.writesCmd
  cases (currentInput s).writes with
  | false => simp
  | true =>
    by_cases h0 : (currentInput s).busWord = 0#2
    · cases s.busy <;> simp [h0]
    · by_cases h1 : (currentInput s).busWord = 1#2 <;> simp [h0, h1]

/-- The bus writes no parameter, neither `RDATA` nor the attachment. -/
theorem busWrite_keeps (s : State) (p : Progress) :
    (busWrite s p).cfg = p.next.cfg ∧ (busWrite s p).rdata = p.next.rdata ∧
      (busWrite s p).attached = p.next.attached := by
  rcases busWrite_cases s p with ⟨-, -, e⟩ | ⟨-, -, e⟩ | ⟨-, -, e⟩ | ⟨-, -, e⟩ <;> rw [e]
  · exact ⟨rfl, rfl, rfl⟩
  · obtain ⟨-, -, -, -, -, -, hcfg, -, hrdata, hatt, -⟩ := acceptWord_keeps (currentInput s).busWdata p.next
    exact ⟨hcfg, hrdata, hatt⟩
  · exact ⟨rfl, rfl, rfl⟩
  · exact ⟨rfl, rfl, rfl⟩

/-- `BUSY` and `ERR`: an acceptance sets the one and clears the other. -/
theorem busWrite_busy_err (s : State) (p : Progress) :
    (busWrite s p).busy = (if (currentInput s).writesCmd = true ∧ s.busy = false then true else p.next.busy) ∧
      (busWrite s p).err = (if (currentInput s).writesCmd = true ∧ s.busy = false then 0#3 else p.next.err) := by
  rcases busWrite_cases s p with ⟨hw, hb, e⟩ | ⟨hw, hb, e⟩ | ⟨hw, -, e⟩ | ⟨hw, -, e⟩ <;> rw [e]
  · simp [hb]
  · obtain ⟨hbusy, -, herr, -⟩ := acceptWord_keeps (currentInput s).busWdata p.next
    simp [hw, hb, hbusy, herr]
  · simp [hw]
  · simp [hw]

/-- `DONE`: cleared by an acceptance, and by a write to `STATUS` with bit 1 unless the cycle completes a command (10_state.md R35). -/
theorem busWrite_done (s : State) (p : Progress) :
    (busWrite s p).done =
      if (currentInput s).writesCmd = true ∧ s.busy = false then false
      else if ((currentInput s).writes = true ∧ (currentInput s).busWord = 1#2) ∧
          clearsDone (currentInput s).busWdata = true ∧ p.completed = false then false
      else p.next.done := by
  rcases busWrite_cases s p with ⟨hw, hb, e⟩ | ⟨hw, hb, e⟩ | ⟨hw, hs, e⟩ | ⟨hw, hs, e⟩ <;> rw [e]
  · have hs : ¬(currentInput s).busWord = 1#2 := by
      simp only [CycleInput.writesCmd, Bool.and_eq_true, beq_iff_eq] at hw
      simp [hw.2]
    simp [hb, hs]
  · simp [hw, hb, (acceptWord_keeps (currentInput s).busWdata p.next).2.1]
  · cases hc : clearsDone (currentInput s).busWdata <;> cases hcomp : p.completed <;> simp [hw, hs, hc]
  · simp [hw, hs]

/-- `OVR`: set by an overrun, cleared by a write to `STATUS` with bit 6 (10_state.md R34). -/
theorem busWrite_ovr (s : State) (p : Progress) :
    (busWrite s p).ovr =
      if (currentInput s).writesCmd = true ∧ s.busy = true then true
      else if ((currentInput s).writes = true ∧ (currentInput s).busWord = 1#2) ∧
          clearsOvr (currentInput s).busWdata = true then false
      else p.next.ovr := by
  rcases busWrite_cases s p with ⟨hw, hb, e⟩ | ⟨hw, hb, e⟩ | ⟨hw, hs, e⟩ | ⟨hw, hs, e⟩ <;> rw [e]
  · simp [hw, hb]
  · have hs : ¬(currentInput s).busWord = 1#2 := by
      simp only [CycleInput.writesCmd, Bool.and_eq_true, beq_iff_eq] at hw
      simp [hw.2]
    obtain ⟨-, -, -, -, -, -, -, hovr, -⟩ := acceptWord_keeps (currentInput s).busWdata p.next
    simp [hb, hs, hovr]
  · cases hc : clearsOvr (currentInput s).busWdata <;> simp [hw, hs, hc]
  · simp [hw, hs]

/-! ### The phase step -/

/-- Outside `EXEC` a phase step is one of the transceiver's; in `IDLE` it does nothing. -/
theorem phaseStep_transceiver {s : State} (h : s.phase ≠ .exec) : TransceiverStep s (phaseStep s) := by
  unfold phaseStep
  split
  · exact .inr ⟨_, _, _, _, _, _, rfl⟩
  · contradiction
  · exact txStep_cases s
  · exact presenceStep_cases s
  · exact settleStep_cases s
  · exact rxWaitStep_cases s
  · exact rxBitsStep_cases s
  · exact pullupStep_cases s

theorem TransceiverStep.attached {s : State} {p : Progress} (h : TransceiverStep s p) : p.next.attached = s.attached := by
  rcases h with ⟨code, rfl⟩ | ⟨_, _, _, _, _, _, rfl⟩ <;> rfl

/-- No phase step changes the parameters or `OVR`. -/
theorem phaseStep_keeps (s : State) : (phaseStep s).next.cfg = s.cfg ∧ (phaseStep s).next.ovr = s.ovr := by
  rcases phaseStep_cases s with ⟨code, a, e⟩ | ⟨_, _, _, _, _, _, e⟩ <;> rw [e] <;> exact ⟨rfl, rfl⟩

/-- Only `ATTACH` and `DETACH` in `EXEC` write the attachment (42_sequencer.md R129). -/
theorem phaseStep_attached (s : State) :
    (phaseStep s).next.attached =
      if s.phase = .exec ∧ s.op = .attach then true
      else if s.phase = .exec ∧ s.op = .detach then false
      else s.attached := by
  by_cases hp : s.phase = .exec
  · simp only [phaseStep, hp, execStep, true_and]
    cases s.op <;> rfl
  · simp only [hp, false_and, if_false]
    exact (phaseStep_transceiver hp).attached

/-- A completion that is no good read keeps `RDATA` (42_sequencer.md R139). -/
theorem complete_keeps_rdata {code : ResultCode} {s : State} (h : ¬(s.op = .readReg ∧ code = .ok)) :
    (complete code s).next.rdata = s.rdata := by
  rw [complete_rdata, if_neg h]

/-- `EXEC` keeps `RDATA`: the only codes it gives a read or write are errors. -/
theorem execStep_keeps_rdata (s : State) : (execStep s).next.rdata = s.rdata := by
  unfold execStep
  cases hop : s.op <;> exact complete_keeps_rdata (by simp [hop])

/-- `TX` completes nothing but a write. -/
theorem txStep_keeps_rdata (s : State) : (txStep s).next.rdata = s.rdata := by
  unfold txStep
  split_ifs with _ hop
  · exact complete_keeps_rdata (by simp [hop])
  · rfl
  · rfl

/-- `PULLUP` writes `RDATA` where the line is high and the response is valid. -/
theorem pullupStep_rdata (s : State) :
    (pullupStep s).next.rdata =
      if s.op = .readReg ∧ s.sync2 = .H ∧ validate s = .ok then responseValue s.rxbuf else s.rdata := by
  unfold pullupStep lineHigh
  by_cases hs : s.sync2 = .H
  · simp [hs]
  · by_cases ht : s.t = s.cfg.pullupWindowCycles - 1 <;> simp [hs, ht]

/-- The only phase step that writes `RDATA` is the good end of a read in `PULLUP`. -/
theorem phaseStep_rdata (s : State) :
    (phaseStep s).next.rdata =
      if s.phase = .pullup ∧ s.op = .readReg ∧ s.sync2 = .H ∧ validate s = .ok then responseValue s.rxbuf
      else s.rdata := by
  unfold phaseStep
  cases hp : s.phase <;> simp only [reduceCtorEq, false_and, true_and, if_false]
  case idle => rfl
  case exec => exact execStep_keeps_rdata s
  case tx => exact txStep_keeps_rdata s
  case presence => unfold presenceStep; split_ifs <;> simp
  case settle => unfold settleStep; split_ifs <;> rfl
  case rxWait => unfold rxWaitStep; split_ifs <;> simp
  case rxBits => unfold rxBitsStep stopSample; split_ifs <;> rfl
  case pullup => exact pullupStep_rdata s

/-- A high line in `PULLUP` completes the command with the validation's result. -/
theorem phaseStep_pullup_high {s : State} (hp : s.phase = .pullup) (hs : s.sync2 = .H) :
    phaseStep s = complete (validate s) s := by
  simp [phaseStep, hp, pullupStep, lineHigh, hs]

end Sys2Proof.Machine
end

section
/-!
The status bits, the attachment and `RDATA` after a step (10_state.md R28, R30 to R35): the register laws, joined along the two kinds of
step, a reset cycle and the clock cycle.
-/

namespace Sys2Proof.Machine

/-- Settles O44: `phaseStep_attached`, since a bus write never reaches the attachment. -/
theorem attachedFollowsAttachAndDetach : Obligations.AttachedFollowsAttachAndDetach := by
  intro s t hstep
  rcases step_next hstep with ⟨hrst, -, rfl⟩ | ⟨hrst, -, rfl⟩
  · simp [hrst]
  · obtain ⟨-, -, hatt⟩ := busWrite_keeps s (phaseStep s)
    simp only [hrst, Bool.false_eq_true, if_false, cycleStep, endOfCycle_attached, hatt, phaseStep_attached]

/-- `{hi, lo}` as a number. -/
theorem responseValue_toNat (f : FrameBuf) : (responseValue f).toNat = f.b4.toNat ||| (f.b5.toNat <<< 8) := by
  simp only [responseValue, joinBytes, BitVec.toNat_append, Nat.lor_comm]

theorem rdataWord_toNat (s : State) : (rdataWord s).toNat = s.rdata.toNat := by
  have := s.rdata.isLt
  simp only [rdataWord, BitVec.toNat_setWidth]
  omega

/-- A good read leaves `ERR = 0`, even where the host's write is accepted in the same cycle. -/
theorem cycleStep_err_of_good_read {s : State} (hp : s.phase = .pullup) (hs : s.sync2 = .H) (hv : validate s = .ok) :
    (cycleStep s).err = 0#3 := by
  obtain ⟨-, herr⟩ := busWrite_busy_err s (phaseStep s)
  have hok : (phaseStep s).next.err = 0#3 := by rw [phaseStep_pullup_high hp hs, hv]; rfl
  rw [cycleStep, endOfCycle_err, herr, hok, ite_self]

/-- Settles O45: `phaseStep_rdata`, since a bus write never reaches `RDATA`. -/
theorem rdataFollowsGoodReads : Obligations.RdataFollowsGoodReads := by
  refine ⟨rdataWord_toNat, fun s t hstep => ?_⟩
  rcases step_next hstep with ⟨hrst, -, rfl⟩ | ⟨hrst, -, rfl⟩
  · simp [hrst]
  · obtain ⟨-, hrdata, -⟩ := busWrite_keeps s (phaseStep s)
    simp only [hrst, Bool.false_eq_true, if_false]
    split_ifs with hgood
    · obtain ⟨hp, -, hs, hv⟩ := id hgood
      refine ⟨cycleStep_err_of_good_read hp hs hv, ?_⟩
      simp only [cycleStep, endOfCycle_rdata, hrdata, phaseStep_rdata, if_pos hgood, responseValue_toNat]
    · simp only [cycleStep, endOfCycle_rdata, hrdata, phaseStep_rdata, if_neg hgood]

/-- The cycle's access is a write to `CMD`, by its three bus signals. -/
theorem writesCmd_iff (x : CycleInput) :
    x.writesCmd = true ↔ x.busEn = true ∧ x.busWe = true ∧ x.busWord = 0#2 := by
  simp [CycleInput.writesCmd, CycleInput.writes, and_assoc]

/-- The status bits after a clock cycle, by what the phase step completes and what the bus access asks for. -/
theorem cycleStep_status {s : State} (h : PhaseInv s) :
    let x := currentInput s
    let accepted := x.writesCmd = true ∧ s.busy = false
    let writesStatus := x.writes = true ∧ x.busWord = 1#2
    (cycleStep s).busy = (if (resultNow s).isSome then false else if accepted then true else s.busy) ∧
    (cycleStep s).done = (if (resultNow s).isSome then true else if accepted then false
      else if writesStatus ∧ clearsDone x.busWdata = true then false else s.done) ∧
    (cycleStep s).err = (resultNow s).elim (if accepted then 0#3 else s.err) ResultCode.code ∧
    (cycleStep s).ovr = (if x.writesCmd = true ∧ s.busy = true then true
      else if writesStatus ∧ clearsOvr x.busWdata = true then false else s.ovr) := by
  obtain ⟨hbusy, herr⟩ := busWrite_busy_err s (phaseStep s)
  have hdone := busWrite_done s (phaseStep s)
  have hovr := busWrite_ovr s (phaseStep s)
  rw [(phaseStep_keeps s).2] at hovr
  have hres := phaseStep_resultNow h
  cases hr : resultNow s with
  | some code =>
    rw [hr] at hres
    obtain ⟨hb, hcomp, hcode, hidle, hset⟩ := hres
    simp only [cycleStep, endOfCycle_busy, endOfCycle_done, endOfCycle_err, endOfCycle_ovr, hbusy, hdone, herr, hovr]
    simp [hb, hcomp, hcode, hidle, hset]
  | none =>
    rw [hr] at hres
    obtain ⟨hcomp, hcode, hb, hset⟩ := hres
    simp only [cycleStep, endOfCycle_busy, endOfCycle_done, endOfCycle_err, endOfCycle_ovr, hbusy, hdone, herr, hovr]
    simp [hb, hcomp, hcode, hset]

/-- Settles O54: `cycleStep_status`, with the bus conditions spelled out in the signals. -/
theorem statusBitsFollowTheirEvents : Obligations.StatusBitsFollowTheirEvents := by
  intro s t hinv hstep
  obtain ⟨-, -, -, -, hphase⟩ := hinv
  rcases step_next hstep with ⟨hrst, -, rfl⟩ | ⟨hrst, -, rfl⟩
  · simp [hrst]
  · have h := cycleStep_status hphase
    simp only [writesCmd_iff, CycleInput.writes, clearsDone, clearsOvr, Bool.and_eq_true, and_assoc] at h
    obtain ⟨hbusy, hdone, herr, hovr⟩ := h
    simp only [hrst, Bool.false_eq_true, if_false, and_assoc]
    refine ⟨hbusy, hdone, ?_, hovr⟩
    rw [herr]
    cases resultNow s <;> rfl

end Sys2Proof.Machine
end

section
/-!
The wire, the words the host reads and the reset values (10_state.md R24 to R29, R36, R41, R42).
-/

namespace Sys2Proof.Machine

/-- The synchroniser takes the wire in every step, a reset cycle among them (40_transceiver.md R92). -/
theorem step_synchronises {s t : State} (h : step s = .next t) :
    t.sync1 = wire s ∧ t.sync2 = s.sync1 ∧ t.sprev = s.sync2 := by
  rcases step_next h with ⟨-, -, rfl⟩ | ⟨-, -, rfl⟩ <;> exact ⟨rfl, rfl, rfl⟩

/-- Where the block drives, the wire has its level. -/
theorem wire_driven {s : State} {l : Level} (h : lineDrive s = ⟨true, l⟩) : wire s = l := by
  simp [wire, h]

/-- Where the block does not drive, the wire has the level of the far end. -/
theorem wire_released {s : State} {l : Level} (h : lineDrive s = ⟨false, l⟩) : wire s = envLevel s := by
  simp [wire, h]

theorem lineDrive_of_attachment {s : State} (h : s.phase = .idle ∨ s.phase = .exec) : lineDrive s = ⟨s.attached, .L⟩ := by
  rcases h with h | h <;> simp [lineDrive, h]

theorem lineDrive_of_tx {s : State} (h : s.phase = .tx) : lineDrive s = ⟨true, txLevel s.cfg s.txbuf s.t⟩ := by
  simp [lineDrive, h]

theorem lineDrive_of_receiving {s : State}
    (h : s.phase = .presence ∨ s.phase = .settle ∨ s.phase = .rxWait ∨ s.phase = .rxBits ∨ s.phase = .pullup) :
    lineDrive s = ⟨false, .L⟩ := by
  rcases h with h | h | h | h | h <;> simp [lineDrive, h]

/-- Settles O55: the driver of each phase, resolved by `wire_driven` and `wire_released`. -/
theorem wireIsResolved : Obligations.WireIsResolved := by
  intro s
  refine ⟨fun hp => wire_driven (lineDrive_of_tx hp), fun hp => ?_, fun hp => wire_released (lineDrive_of_receiving hp),
    fun hfar => ?_, fun hfar => ?_, fun t => step_synchronises⟩
  · have hdrive := lineDrive_of_attachment hp
    cases hatt : s.attached <;> rw [hatt] at hdrive
    · exact wire_released hdrive
    · exact wire_driven hdrive
  · simp [envLevel, hfar]
  · simp [envLevel, hfar]

/-- `STATUS` by position: `BUSY`, `DONE`, the three bits of `ERR`, `ATTACHED`, `OVR`, and reserved zeros (10_state.md R27). -/
theorem statusWord_getLsbD (s : State) (k : Nat) :
    (statusWord s).getLsbD k =
      if k = 0 then s.busy else if k = 1 then s.done else if k < 5 then s.err.getLsbD (k - 2)
      else if k = 5 then s.attached else if k = 6 then s.ovr else false := by
  simp only [statusWord, bit, BitVec.getLsbD_setWidth, BitVec.getLsbD_append]
  match k with
  | 0 | 1 | 2 | 3 | 4 | 5 | 6 => simp
  | k + 7 => simp

/-- The field `ERR` of `STATUS` (10_state.md R27). -/
theorem statusWord_err (s : State) : (statusWord s).extractLsb' 2 3 = s.err := by
  apply BitVec.eq_of_getLsbD_eq
  intro i hi
  rw [BitVec.getLsbD_extractLsb', statusWord_getLsbD, if_neg (by omega), if_neg (by omega), if_pos (by omega)]
  simp [hi]

/-- The bits of `STATUS` from 7 on are reserved and read 0 (10_state.md R27). -/
theorem statusWord_reserved (s : State) {k : Nat} (hk : 7 ≤ k) : (statusWord s).getLsbD k = false := by
  rw [statusWord_getLsbD, if_neg (by omega), if_neg (by omega), if_neg (by omega), if_neg (by omega), if_neg (by omega)]

/-- Settles O29: `STATUS` bit by bit, `RDATA` by its value, and the two branches of `busRdata`. -/
theorem hostReadsTheFields : Obligations.HostReadsTheFields := by
  intro s
  refine ⟨statusWord_getLsbD s 0, statusWord_getLsbD s 1, statusWord_err s, statusWord_getLsbD s 5,
    statusWord_getLsbD s 6, fun k => statusWord_reserved s, rfl, rfl, rdataWord_toNat s, fun hen hwe => ?_, fun h => ?_⟩
  · simp [busRdata, hen, hwe]
  · rcases h with h | h <;> simp [busRdata, h]

/-- With every flag and `ERR` cleared, `STATUS` reads 0. -/
theorem statusWord_cleared {s : State} (hovr : s.ovr = false) (hatt : s.attached = false) (herr : s.err = 0#3)
    (hdone : s.done = false) (hbusy : s.busy = false) : statusWord s = 0#32 := by
  rw [statusWord, hovr, hatt, herr, hdone, hbusy]
  decide

/-- Settles O34: the step is `resetCycle`, whose fields are R41's, and a detached idle block releases the line. -/
theorem resetCycleLeaves : Obligations.ResetCycleLeaves := by
  intro s hcfg hrst
  refine ⟨resetCycle s, step_of_rst hcfg hrst, rfl, rfl, rfl, rfl, rfl, rfl, rfl, rfl,
    statusWord_cleared rfl rfl rfl rfl rfl, rfl, rfl, rfl, rfl, rfl, rfl, ?_⟩
  intro k
  rw [resetCycle_servo, servoAdvance_regs]

/-- Settles O35: each field of `State.resetWith` as R41 lists it, and the line of a detached idle block. -/
theorem resetStateFollowsTheTable : Obligations.ResetStateFollowsTheTable := by
  refine ⟨rfl, fun p => ⟨rfl, rfl, rfl, rfl, rfl, rfl, rfl, rfl, ?_, rfl⟩⟩
  exact lineDrive_of_attachment (.inl rfl)

/-- R41's values meet the invariant for any parameters in range. -/
theorem resetWith_inv {p : Params} (hp : p.valid = true) : Inv (State.resetWith p) :=
  ⟨hp, show 0#3 ≤ 5#3 by decide, fun hbusy => Bool.noConfusion hbusy, reset_memory_wf p, rfl, rfl⟩

/-- Settles O42: the defaults at 16 MHz are in range, so both parts are `resetWith_inv`. -/
theorem invariantHoldsAtReset : Obligations.InvariantHoldsAtReset :=
  ⟨resetWith_inv (by decide), fun _ => resetWith_inv⟩

end Sys2Proof.Machine
end

section
/-!
What a cycle makes of its listed inputs: the phase step reads none of them, so the bus access acts through `busWrite` alone
(40_transceiver.md R102; 20_memory.md R52).
-/

namespace Sys2Proof.Machine

/-- The same state with other listed inputs. -/
def State.withInputs (inputs : List CycleInput) (s : State) : State := { s with inputs := inputs }

/-- The same progress with other listed inputs. -/
def Progress.withInputs (inputs : List CycleInput) (p : Progress) : Progress := ⟨p.next.withInputs inputs, p.completed⟩

@[simp] theorem withInputs_phase (inputs : List CycleInput) (s : State) : (s.withInputs inputs).phase = s.phase := rfl
@[simp] theorem withInputs_op (inputs : List CycleInput) (s : State) : (s.withInputs inputs).op = s.op := rfl

theorem execStep_withInputs (inputs : List CycleInput) (s : State) :
    execStep (s.withInputs inputs) = (execStep s).withInputs inputs := by
  simp only [execStep, withInputs_op]
  cases s.op <;> rfl

theorem txStep_withInputs (inputs : List CycleInput) (s : State) :
    txStep (s.withInputs inputs) = (txStep s).withInputs inputs := by
  simp only [txStep, apply_ite (Progress.withInputs inputs)]
  rfl

theorem presenceStep_withInputs (inputs : List CycleInput) (s : State) :
    presenceStep (s.withInputs inputs) = (presenceStep s).withInputs inputs := by
  simp only [presenceStep, apply_ite (Progress.withInputs inputs)]
  rfl

theorem settleStep_withInputs (inputs : List CycleInput) (s : State) :
    settleStep (s.withInputs inputs) = (settleStep s).withInputs inputs := by
  simp only [settleStep, apply_ite (Progress.withInputs inputs)]
  rfl

theorem rxWaitStep_withInputs (inputs : List CycleInput) (s : State) :
    rxWaitStep (s.withInputs inputs) = (rxWaitStep s).withInputs inputs := by
  simp only [rxWaitStep, apply_ite (Progress.withInputs inputs)]
  rfl

theorem stopSample_withInputs (inputs : List CycleInput) (s : State) :
    stopSample (s.withInputs inputs) = (stopSample s).withInputs inputs := by
  simp only [stopSample, apply_ite (State.withInputs inputs)]
  rfl

theorem rxBitsStep_withInputs (inputs : List CycleInput) (s : State) :
    rxBitsStep (s.withInputs inputs) = (rxBitsStep s).withInputs inputs := by
  simp only [rxBitsStep, stopSample_withInputs, apply_ite (Progress.withInputs inputs)]
  rfl

theorem pullupStep_withInputs (inputs : List CycleInput) (s : State) :
    pullupStep (s.withInputs inputs) = (pullupStep s).withInputs inputs := by
  simp only [pullupStep, apply_ite (Progress.withInputs inputs)]
  rfl

/-- The phase step neither reads nor changes the listed inputs. -/
theorem phaseStep_withInputs (inputs : List CycleInput) (s : State) :
    phaseStep (s.withInputs inputs) = (phaseStep s).withInputs inputs := by
  unfold phaseStep
  rw [withInputs_phase]
  cases s.phase
  case idle => rfl
  case exec => exact execStep_withInputs inputs s
  case tx => exact txStep_withInputs inputs s
  case presence => exact presenceStep_withInputs inputs s
  case settle => exact settleStep_withInputs inputs s
  case rxWait => exact rxWaitStep_withInputs inputs s
  case rxBits => exact rxBitsStep_withInputs inputs s
  case pullup => exact pullupStep_withInputs inputs s

theorem acceptWord_withInputs (w : Word) (inputs : List CycleInput) (n : State) :
    acceptWord w (n.withInputs inputs) = (acceptWord w n).withInputs inputs := by
  unfold acceptWord
  cases wordKind w
  case writeReg => simp only [acceptWrite, apply_ite (State.withInputs inputs)]; rfl
  case readReg => simp only [acceptRead, apply_ite (State.withInputs inputs)]; rfl
  all_goals rfl

/-- The bus write of a cycle whose listed inputs start with `x`. -/
theorem busWrite_withInputs (x : CycleInput) (rest : List CycleInput) (s : State) (p : Progress) :
    busWrite (s.withInputs (x :: rest)) p =
      if x.writes then
        if x.busWord = 0#2 then if s.busy then { p.next with ovr := true } else acceptWord x.busWdata p.next
        else if x.busWord = 1#2 then writeStatus p.completed x.busWdata p.next
        else p.next
      else p.next := rfl

/-- The bus write does not change the listed inputs either. -/
theorem busWrite_progress_withInputs (inputs : List CycleInput) (s : State) (p : Progress) :
    busWrite s (p.withInputs inputs) = (busWrite s p).withInputs inputs := by
  simp only [busWrite, Progress.withInputs, acceptWord_withInputs, apply_ite (State.withInputs inputs)]
  rfl

/-- The wire depends on the listed inputs through this cycle's `env` alone. -/
theorem wire_withInputs {x y : CycleInput} (henv : x.env = y.env) (rest : List CycleInput) (s : State) :
    wire (s.withInputs (x :: rest)) = wire (s.withInputs (y :: rest)) := by
  have hcur : (currentInput (s.withInputs (x :: rest))).env = (currentInput (s.withInputs (y :: rest))).env := henv
  unfold wire envLevel
  rw [hcur]
  rfl

/-- The end of a cycle uses up the listed inputs, whatever the cycle's new registers hold of them. -/
theorem endOfCycle_withInputs {x y : CycleInput} (henv : x.env = y.env) (rest inputs : List CycleInput) (s n : State) :
    endOfCycle (s.withInputs (x :: rest)) (n.withInputs inputs) = endOfCycle (s.withInputs (y :: rest)) n := by
  unfold endOfCycle
  rw [wire_withInputs henv rest s]
  rfl

/-- Two cycles that differ in the bus access alone differ in the bus write alone: one phase step, one line, one far end. -/
theorem cycleStep_access {x y : CycleInput} (henv : x.env = y.env) (rest : List CycleInput) (s : State) :
    cycleStep (s.withInputs (x :: rest)) =
      endOfCycle (s.withInputs (y :: rest))
        (busWrite (s.withInputs (x :: rest)) (phaseStep (s.withInputs (y :: rest)))) := by
  simp only [cycleStep, phaseStep_withInputs, busWrite_progress_withInputs]
  exact endOfCycle_withInputs henv rest _ s _

/-- What `step` asks of a state does not depend on the listed inputs but for `rst`. -/
theorem step_access_congr {x y : CycleInput} {rest : List CycleInput} {s : State} (hx : x.rst = false) (hy : y.rst = false)
    (h : cycleStep (s.withInputs (x :: rest)) = cycleStep (s.withInputs (y :: rest))) :
    step (s.withInputs (x :: rest)) = step (s.withInputs (y :: rest)) := by
  have hx' : (currentInput (s.withInputs (x :: rest))).rst = false := hx
  have hy' : (currentInput (s.withInputs (y :: rest))).rst = false := hy
  cases hcfg : s.cfg.valid with
  | false =>
    have hcfg' : ∀ inputs, (s.withInputs inputs).cfg.valid = false := fun _ => hcfg
    rw [step_of_invalid_cfg (hcfg' _), step_of_invalid_cfg (hcfg' _)]
  | true =>
    have hcfg' : ∀ inputs, (s.withInputs inputs).cfg.valid = true := fun _ => hcfg
    by_cases herr : 5#3 < s.err
    · have herr' : ∀ inputs, 5#3 < (s.withInputs inputs).err := fun _ => herr
      rw [step_of_impossible_err (hcfg' _) hx' (herr' _), step_of_impossible_err (hcfg' _) hy' (herr' _)]
    · have hs : ∀ inputs, Runnable (s.withInputs inputs) := fun _ => ⟨hcfg, BitVec.not_lt.mp herr⟩
      rw [step_of_no_rst (hs _) hx', step_of_no_rst (hs _) hy', h]

/-- Settles O31: the bus write of an ignored access leaves the phase step's registers, and so does that of no access. -/
theorem ignoredWritesHaveNoEffect : Obligations.IgnoredWritesHaveNoEffect := by
  intro s word wdata env rest hword
  refine step_access_congr (s := s) (x := writeInput word wdata env) (y := idleInput env) rfl rfl ?_
  rw [cycleStep_access (show (writeInput word wdata env).env = (idleInput env).env from rfl), cycleStep]
  congr 1
  rw [busWrite_withInputs, busWrite_withInputs]
  rcases hword with rfl | rfl <;> rfl

/-- A write to `STATUS` reaches the state through `writeStatus` alone, applied to what a cycle with no access leaves. -/
theorem cycleStep_statusWrite (w : Word) (env : Level) (rest : List CycleInput) (s : State) :
    cycleStep (s.withInputs (writeInput 1#2 w env :: rest)) =
      writeStatus (phaseStep (s.withInputs (idleInput env :: rest))).completed w
        (cycleStep (s.withInputs (idleInput env :: rest))) := by
  rw [cycleStep_access (show (writeInput 1#2 w env).env = (idleInput env).env from rfl),
    busWrite_withInputs]
  rfl

/-- `writeStatus` with its two write-1-to-clear bits as conditions (10_state.md R27, R35). -/
theorem writeStatus_eq (completed : Bool) (w : Word) (n : State) :
    writeStatus completed w n =
      { n with
        done := if w.getLsbD 1 = true ∧ completed = false then false else n.done
        ovr := if w.getLsbD 6 then false else n.ovr } := by
  unfold writeStatus clearsDone clearsOvr
  cases w.getLsbD 1 <;> cases w.getLsbD 6 <;> cases completed <;> simp

/-- Settles O33: `cycleStep_statusWrite` in the terms of `writeStatus_eq`. -/
theorem statusWriteClearsItsBits : Obligations.StatusWriteClearsItsBits := by
  intro s w env rest hs
  have hidle := step_of_no_rst (s := s.withInputs (idleInput env :: rest)) hs rfl
  have hwrite := step_of_no_rst (s := s.withInputs (writeInput 1#2 w env :: rest)) hs rfl
  rw [cycleStep_statusWrite, writeStatus_eq] at hwrite
  exact ⟨_, hidle, hwrite⟩

end Sys2Proof.Machine
end

section
/-!
The invariant and the count of busy cycles that are left (10_state.md R21, R22; 70_reset_and_hazards.md R182). Both follow from one fact for each
phase: a step that does not complete keeps the phase's part of the invariant and takes one cycle off the count.
-/

namespace Sys2Proof.Machine

/-! ### The count of cycles left -/

/-- The most busy cycles that the bytes from number `idx` on and the pull-up check take. -/
def bytesLeft (p : Params) (idx : Nat) : Nat := (7 - idx) * p.byteCycles + p.pullupWindowCycles

/-- The most busy cycles a read takes after its request: presence check, settling, seven bytes and the pull-up check. -/
def replyCycles (p : Params) : Nat := p.presenceDelayCycles + 1 + p.settleCycles + bytesLeft p 0

/-- The most busy cycles the running command still takes, this one among them (70_reset_and_hazards.md R182). -/
def cyclesLeft (s : State) : Nat :=
  match s.phase with
  | .idle => 0
  | .exec => 1
  | .tx => s.cfg.txCycles s.txlen.toNat - s.t + if s.op = .writeReg then 0 else replyCycles s.cfg
  | .presence => replyCycles s.cfg - s.t
  | .settle => s.cfg.settleCycles - s.t + bytesLeft s.cfg 0
  | .rxWait => bytesLeft s.cfg s.rxidx.toNat - s.t
  | .rxBits => s.cfg.samplePoint 8 + 1 - s.t + bytesLeft s.cfg (s.rxidx.toNat + 1)
  | .pullup => s.cfg.pullupWindowCycles - s.t

/-- A byte that is still to come takes its window and its sampling. -/
theorem bytesLeft_succ (p : Params) {idx : Nat} (h : idx ≤ 6) :
    bytesLeft p idx = p.startTimeoutCycles + p.samplePoint 8 + bytesLeft p (idx + 1) := by
  have hidx : 7 - idx = 7 - (idx + 1) + 1 := by omega
  simp only [bytesLeft, hidx, Nat.succ_mul, Params.byteCycles, Params.samplePoint]
  omega

theorem bytesLeft_le (p : Params) (idx : Nat) : bytesLeft p idx ≤ bytesLeft p 0 :=
  Nat.add_le_add_right (Nat.mul_le_mul_right _ (by omega)) _

@[simp] theorem bytesLeft_seven (p : Params) : bytesLeft p 7 = p.pullupWindowCycles := by simp [bytesLeft]

/-- The maximum is that of a read with its request (70_reset_and_hazards.md R182). -/
theorem maxBusyCycles_eq (p : Params) : p.maxBusyCycles = p.txCycles 5 + replyCycles p := by
  simp only [Params.maxBusyCycles, Params.txCycles, replyCycles, bytesLeft]
  omega

/-- A write's frame is shorter than a read's longest course. -/
theorem txCycles_write_le (p : Params) : p.txCycles 7 ≤ p.maxBusyCycles := by
  simp only [Params.maxBusyCycles, Params.txCycles, Params.byteCycles]
  omega

/-- No command is busy for longer than the maximum. -/
theorem cyclesLeft_le {s : State} (h : PhaseInv s) : cyclesLeft s ≤ s.cfg.maxBusyCycles := by
  have hmax := maxBusyCycles_eq s.cfg
  have hwrite := txCycles_write_le s.cfg
  have hreply : replyCycles s.cfg = s.cfg.presenceDelayCycles + 1 + s.cfg.settleCycles + bytesLeft s.cfg 0 := rfl
  unfold PhaseInv at h
  unfold cyclesLeft
  cases hp : s.phase <;> simp only [hp] at h ⊢
  case idle | exec | presence | settle => omega
  case tx =>
    obtain ⟨-, -, -, ⟨hop, hlen, -⟩ | ⟨hop, hlen, -⟩⟩ := h
    · rw [hlen, if_pos hop, show (7#3).toNat = 7 from rfl]; omega
    · rw [hlen, hop, show (5#3).toNat = 5 from rfl, if_neg (by decide)]; omega
  case rxWait => have := bytesLeft_le s.cfg s.rxidx.toNat; omega
  case rxBits =>
    obtain ⟨-, ht, -, hidx⟩ := h
    have hbyte := bytesLeft_succ s.cfg (show s.rxidx.toNat ≤ 6 from hidx)
    have := bytesLeft_le s.cfg s.rxidx.toNat
    omega
  case pullup =>
    have : s.cfg.pullupWindowCycles ≤ bytesLeft s.cfg 0 := Nat.le_add_left _ _
    omega

/-- A busy block has a cycle left. -/
theorem cyclesLeft_pos {s : State} (h : PhaseInv s) (hb : s.busy = true) : 0 < cyclesLeft s := by
  have hreply : replyCycles s.cfg = s.cfg.presenceDelayCycles + 1 + s.cfg.settleCycles + bytesLeft s.cfg 0 := rfl
  unfold PhaseInv at h
  unfold cyclesLeft
  cases hp : s.phase <;> simp only [hp] at h ⊢
  case idle => exact absurd hb (by simp [h.1])
  case exec | tx | presence | settle | rxBits | pullup => omega
  case rxWait =>
    obtain ⟨-, ht, hidx⟩ := h
    have hbyte := bytesLeft_succ s.cfg (show s.rxidx.toNat ≤ 6 from hidx)
    omega

/-! ### One phase step -/

/-- A phase step that does not complete the command keeps the phase's part of the invariant and takes a cycle off the count. -/
def Advances (s : State) (p : Progress) : Prop :=
  p.completed = false → PhaseInv p.next ∧ cyclesLeft p.next < cyclesLeft s

theorem advances_complete (s n : State) (code : ResultCode) : Advances s (complete code n) :=
  fun h => Bool.noConfusion h

/-- Where the phase lets the counter go on, a tick takes a cycle off the count. -/
theorem advances_tick {s : State} (h : PhaseInv (tick s)) : Advances s (goOn (tick s)) := by
  refine fun _ => ⟨h, ?_⟩
  simp only [PhaseInv, tick] at h
  simp only [goOn, tick, cyclesLeft, replyCycles]
  cases hp : s.phase <;> simp only [hp] at h ⊢
  case idle | exec | presence | settle | rxBits | pullup => omega
  case tx => exact Nat.add_lt_add_right (by omega) _
  case rxWait =>
    obtain ⟨-, ht, hidx⟩ := h
    have hbyte := bytesLeft_succ s.cfg (show s.rxidx.toNat ≤ 6 from hidx)
    omega

/-- What the invariant says of the parameters (00_scope.md R7). -/
theorem params_of_valid {p : Params} (h : p.valid = true) :
    32 ≤ p.bitCycles ∧ 2 ≤ p.presenceDelayCycles ∧ 1 ≤ p.settleCycles ∧ 3 ≤ p.startTimeoutCycles ∧
      1 ≤ p.pullupWindowCycles := by
  simp only [Params.valid, Bool.and_eq_true, decide_eq_true_eq] at h
  omega

theorem txStep_advances {s : State} (h : PhaseInv s) (hp : s.phase = .tx) : Advances s (txStep s) := by
  simp only [PhaseInv, hp] at h
  obtain ⟨hb, hatt, ht, hframe⟩ := h
  unfold txStep
  split_ifs with hend hop
  · exact advances_complete _ _ _
  · obtain ⟨hwrite, -⟩ | ⟨hread, -⟩ := hframe
    · contradiction
    · refine fun _ => ⟨⟨⟨hb, hatt, hread⟩, Nat.zero_le _⟩, ?_⟩
      simp only [goOn, cyclesLeft, hp, if_neg hop]
      omega
  · have hlast : s.t ≠ s.cfg.txCycles s.txlen.toNat - 1 := by simpa [txEnds] using hend
    refine advances_tick ?_
    simp only [PhaseInv, tick, hp]
    exact ⟨hb, hatt, by omega, hframe⟩

theorem presenceStep_advances {s : State} (h : PhaseInv s) (hp : s.phase = .presence)
    (hsettle : 1 ≤ s.cfg.settleCycles) : Advances s (presenceStep s) := by
  simp only [PhaseInv, hp] at h
  obtain ⟨hrecv, ht⟩ := h
  unfold presenceStep
  split_ifs with hend
  · exact advances_complete _ _ _
  · refine fun _ => ⟨⟨hrecv, hsettle⟩, ?_⟩
    simp only [goOn, cyclesLeft, hp, replyCycles]
    omega
  · refine advances_tick ?_
    simp only [PhaseInv, tick, hp]
    exact ⟨hrecv, by omega⟩

theorem settleStep_advances {s : State} (h : PhaseInv s) (hp : s.phase = .settle)
    (hwindow : 3 ≤ s.cfg.startTimeoutCycles) : Advances s (settleStep s) := by
  simp only [PhaseInv, hp] at h
  obtain ⟨hrecv, ht⟩ := h
  unfold settleStep
  split_ifs with hend
  · refine fun _ => ⟨⟨hrecv, show 0 < s.cfg.startTimeoutCycles by omega, show 0#3 ≤ 6#3 by decide⟩, ?_⟩
    simp only [goOn, cyclesLeft, hp, show (0#3).toNat = 0 from rfl]
    omega
  · refine advances_tick ?_
    simp only [PhaseInv, tick, hp]
    exact ⟨hrecv, by omega⟩

theorem rxWaitStep_advances {s : State} (h : PhaseInv s) (hp : s.phase = .rxWait) (hbit : 32 ≤ s.cfg.bitCycles) :
    Advances s (rxWaitStep s) := by
  simp only [PhaseInv, hp] at h
  obtain ⟨hrecv, ht, hidx⟩ := h
  unfold rxWaitStep
  split_ifs
  · have hbyte := bytesLeft_succ s.cfg (show s.rxidx.toNat ≤ 6 from hidx)
    have hlast : 1 ≤ s.cfg.samplePoint 8 := by unfold Params.samplePoint; omega
    refine fun _ => ⟨⟨hrecv, Nat.le_refl 1, hlast, hidx⟩, ?_⟩
    simp only [goOn, cyclesLeft, hp]
    omega
  · exact advances_complete _ _ _
  · refine advances_tick ?_
    simp only [PhaseInv, tick, hp]
    exact ⟨hrecv, by omega, hidx⟩

/-- The last count of `RX_BITS` is the stop bit's sample point (40_transceiver.md R98). -/
theorem stop_sample_point {s : State} (ht : s.t = s.cfg.samplePoint 8) (hbit : 32 ≤ s.cfg.bitCycles) :
    atSample s = true ∧ sampleIndex s = 8 := by
  have hsub : s.t - (s.cfg.bitCycles + s.cfg.halfCycles) = 8 * s.cfg.bitCycles := by
    rw [ht, Params.samplePoint, Nat.add_sub_cancel_left]
  have hle : s.cfg.bitCycles + s.cfg.halfCycles ≤ s.t := ht ▸ Nat.le_add_right _ _
  exact ⟨by simp [atSample, hsub, hle], by rw [sampleIndex, hsub, Nat.mul_div_cancel _ (by omega)]⟩

/-- After its stop bit a byte is followed by the next window or, after the seventh, by the pull-up check. -/
theorem stopSample_advances {s : State} (h : PhaseInv s) (hp : s.phase = .rxBits) (hcfg : s.cfg.valid = true) :
    Advances s (goOn (stopSample s)) := by
  obtain ⟨-, -, -, hwindow, hpullup⟩ := params_of_valid hcfg
  simp only [PhaseInv, hp] at h
  obtain ⟨hrecv, -, ht, hidx⟩ := h
  unfold stopSample
  split_ifs with hlast
  · refine fun _ => ⟨⟨hrecv, hpullup⟩, ?_⟩
    simp only [goOn, cyclesLeft, hp, hlast, show (6#3).toNat + 1 = 7 from rfl, bytesLeft_seven]
    omega
  · have hnext : s.rxidx + 1#3 ≤ 6#3 ∧ (s.rxidx + 1#3).toNat = s.rxidx.toNat + 1 := by
      constructor <;> bv_omega
    refine fun _ => ⟨⟨hrecv, show 0 < s.cfg.startTimeoutCycles by omega, hnext.1⟩, ?_⟩
    simp only [goOn, cyclesLeft, hp, hnext.2]
    omega

theorem rxBitsStep_advances {s : State} (h : PhaseInv s) (hp : s.phase = .rxBits) (hcfg : s.cfg.valid = true) :
    Advances s (rxBitsStep s) := by
  have hstop := stopSample_advances h hp hcfg
  obtain ⟨hbit, -⟩ := params_of_valid hcfg
  simp only [PhaseInv, hp] at h
  obtain ⟨hrecv, hpos, ht, hidx⟩ := h
  have counts_on : ∀ shift, s.t ≠ s.cfg.samplePoint 8 → Advances s (goOn (tick { s with shift := shift })) := by
    intro shift hne
    refine advances_tick (s := { s with shift := shift }) ?_
    simp only [PhaseInv, tick, hp]
    exact ⟨hrecv, by omega, by omega, hidx⟩
  unfold rxBitsStep
  split_ifs with hsample hdata
  · exact counts_on _ fun hlast => by have := (stop_sample_point hlast hbit).2; omega
  · exact hstop
  · exact counts_on s.shift fun hlast => hsample (stop_sample_point hlast hbit).1

theorem pullupStep_advances {s : State} (h : PhaseInv s) (hp : s.phase = .pullup) : Advances s (pullupStep s) := by
  simp only [PhaseInv, hp] at h
  obtain ⟨hrecv, ht⟩ := h
  unfold pullupStep
  split_ifs
  · exact advances_complete _ _ _
  · exact advances_complete _ _ _
  · refine advances_tick ?_
    simp only [PhaseInv, tick, hp]
    exact ⟨hrecv, by omega⟩

/-- A busy block's phase step completes the command or advances it. -/
theorem phaseStep_advances {s : State} (hcfg : s.cfg.valid = true) (h : PhaseInv s) (hb : s.busy = true) :
    Advances s (phaseStep s) := by
  obtain ⟨hbit, -, hsettle, hwindow, -⟩ := params_of_valid hcfg
  unfold phaseStep
  split
  · next hp =>
    simp only [PhaseInv, hp] at h
    exact absurd hb (by simp [h.1])
  · obtain ⟨code, attached, e⟩ := execStep_cases s
    rw [e]
    exact advances_complete _ _ _
  · next hp => exact txStep_advances h hp
  · next hp => exact presenceStep_advances h hp hsettle
  · next hp => exact settleStep_advances h hp hwindow
  · next hp => exact rxWaitStep_advances h hp hbit
  · next hp => exact rxBitsStep_advances h hp hcfg
  · next hp => exact pullupStep_advances h hp

/-! ### The invariant -/

/-- A block that is not busy is in `IDLE`, with its counter at 0 (10_state.md R21). -/
theorem idle_of_not_busy {s : State} (h : PhaseInv s) (hb : s.busy = false) : s.phase = .idle ∧ s.t = 0 := by
  unfold PhaseInv at h
  cases hp : s.phase <;> simp only [hp, Receiving, hb, Bool.false_eq_true, false_and] at h
  exact ⟨rfl, h.2⟩

/-- An acceptance enters `EXEC`, or `TX` with its frame built (42_sequencer.md R125, R127). -/
theorem acceptWord_phaseInv {w : Word} {n : State} (hcfg : n.cfg.valid = true) (ht : n.t = 0) :
    PhaseInv (acceptWord w n) := by
  obtain ⟨hbit, -⟩ := params_of_valid hcfg
  have hframe : ∀ k, 0 < n.cfg.txCycles k := fun k => Nat.mul_pos (by omega) (by omega)
  unfold acceptWord
  cases wordKind w
  case illegal | attach | detach => exact ⟨rfl, ht, by simp⟩
  case writeReg =>
    unfold acceptWrite
    split_ifs with hatt
    · exact ⟨rfl, hatt, hframe 7, .inl ⟨rfl, rfl, rfl⟩⟩
    · exact ⟨rfl, ht, fun _ => by simpa using hatt⟩
  case readReg =>
    unfold acceptRead
    split_ifs with hatt
    · exact ⟨rfl, hatt, hframe 5, .inr ⟨rfl, rfl, rfl⟩⟩
    · exact ⟨rfl, ht, fun _ => by simpa using hatt⟩

/-- In an idle block the phase's part of the invariant speaks of `BUSY` and the counter alone. -/
theorem phaseInv_of_idle {s : State} (hp : s.phase = .idle) (hb : s.busy = false) (ht : s.t = 0) : PhaseInv s := by
  simp only [PhaseInv, hp]
  exact ⟨hb, ht⟩

/-- A cycle keeps the phase's part of the invariant. -/
theorem cycleStep_phaseInv {s : State} (hcfg : s.cfg.valid = true) (h : PhaseInv s) : PhaseInv (cycleStep s) := by
  cases hb : s.busy with
  | true =>
    have hbus : PhaseInv (cycleStep s) = PhaseInv (phaseStep s).next := by
      rw [cycleStep, busWrite_busy hb]
      rfl
    rw [hbus]
    cases hcomp : (phaseStep s).completed with
    | true =>
      obtain ⟨hbusy, -, -, hp, ht⟩ := phaseStep_completed hcomp
      exact phaseInv_of_idle hp hbusy ht
    | false => exact (phaseStep_advances hcfg h hb hcomp).1
  | false =>
    obtain ⟨hp, ht⟩ := idle_of_not_busy h hb
    have hphase : phaseStep s = goOn s := by simp only [phaseStep, hp]
    show PhaseInv (endOfCycle s (busWrite s (phaseStep s)))
    rw [hphase]
    rcases busWrite_cases s (goOn s) with ⟨-, hbusy, -⟩ | ⟨-, -, e⟩ | ⟨-, -, e⟩ | ⟨-, -, e⟩
    · exact absurd hbusy (by simp [hb])
    · rw [e]; exact acceptWord_phaseInv (n := s) hcfg ht
    · rw [e]; exact phaseInv_of_idle hp hb ht
    · rw [e]; exact phaseInv_of_idle hp hb ht

/-- A busy block shows neither `DONE` nor a result, and a result is one of 60_exceptions.md R150: both survive a cycle. -/
theorem cycleStep_result {s : State} (h : Inv s) :
    (cycleStep s).err ≤ 5#3 ∧ ((cycleStep s).busy = true → (cycleStep s).done = false ∧ (cycleStep s).err = 0#3) := by
  obtain ⟨-, herr, hresult, -, hphase⟩ := h
  obtain ⟨hbusy', hdone', herr', -⟩ := cycleStep_status hphase
  rw [hbusy', hdone', herr']
  cases resultNow s with
  | some code => exact ⟨code.code_le, fun h => Bool.noConfusion h⟩
  | none =>
    simp only [Option.elim, Option.isSome_none, Bool.false_eq_true, if_false]
    split_ifs with haccept hclear
    · exact ⟨by decide, fun _ => ⟨rfl, rfl⟩⟩
    · exact ⟨herr, fun hb => ⟨rfl, (hresult hb).2⟩⟩
    · exact ⟨herr, hresult⟩

theorem cycleStep_cfg (s : State) : (cycleStep s).cfg = s.cfg := by
  obtain ⟨hbus, -, -⟩ := busWrite_keeps s (phaseStep s)
  rw [cycleStep, endOfCycle_cfg, hbus, (phaseStep_keeps s).1]

theorem cycleStep_inv {s : State} (h : Inv s) : Inv (cycleStep s) := by
  obtain ⟨herr, hresult⟩ := cycleStep_result h
  obtain ⟨hcfg, -, -, hregs, hphase⟩ := h
  exact ⟨(cycleStep_cfg s).symm ▸ hcfg, herr, hresult, servoNext_keeps_wf hregs, cycleStep_phaseInv hcfg hphase⟩

/-- A reset cycle needs of the invariant the parameters and the servo's registers only. -/
theorem resetCycle_inv {s : State} (hcfg : s.cfg.valid = true) (hregs : s.servo.regs.wf = true) : Inv (resetCycle s) :=
  ⟨hcfg, show 0#3 ≤ 5#3 by decide, fun hbusy => Bool.noConfusion hbusy, hregs, rfl, rfl⟩

/-- Settles O43: a step is a reset cycle or a clock cycle (`step_next`), and each keeps the invariant. -/
theorem stepKeepsInvariant : Obligations.StepKeepsInvariant := by
  intro s t hinv hstep
  rcases step_next hstep with ⟨-, hcfg, rfl⟩ | ⟨-, -, rfl⟩
  · obtain ⟨-, -, -, hregs, -⟩ := hinv
    exact resetCycle_inv hcfg hregs
  · exact cycleStep_inv hinv

end Sys2Proof.Machine
end

section
/-!
Every command ends (10_state.md R22; 70_reset_and_hazards.md R182): each cycle of a busy block completes its command or takes a cycle off
`cyclesLeft`.
-/

namespace Sys2Proof.Machine

/-- A run of `n + 1` steps is one step and a run of `n`. -/
theorem core_run_succ (M : Host.Core) {s t : M.State} (h : M.step s = .next t) (n : Nat) : M.run (n + 1) s = M.run n t := by
  rw [Host.Core.run, h]

theorem runCycles_succ {s t : State} (h : step s = .next t) (n : Nat) : runCycles (n + 1) s = runCycles n t :=
  core_run_succ Sys2Proof.core h n

/-- The first of the quiet cycles is no reset cycle. -/
theorem Quiet.no_rst {n : Nat} {s : State} (h : Quiet (n + 1) s) : (currentInput s).rst = false := by
  unfold currentInput
  cases hin : s.inputs with
  | nil => rfl
  | cons x rest => exact h x (by simp [hin])

/-- The cycles after the first are quiet in the state that a step leaves. -/
theorem Quiet.tail {n : Nat} {s t : State} (h : Quiet (n + 1) s) (ht : t.inputs = s.inputs.tail) : Quiet n t := by
  intro x hx
  rw [ht] at hx
  cases hin : s.inputs with
  | nil => simp [hin] at hx
  | cons y rest =>
    rw [hin] at hx
    exact h x (by rw [hin, List.take_succ_cons]; exact List.mem_cons_of_mem y hx)

/-- A cycle of a busy block completes the command, or the command goes on with fewer cycles left. -/
theorem cycleStep_completes_or_advances {s : State} (hinv : Inv s) (hb : s.busy = true) :
    ((cycleStep s).busy = false ∧ (cycleStep s).done = true ∧ (cycleStep s).phase = .idle) ∨
      ((cycleStep s).busy = true ∧ cyclesLeft (cycleStep s) < cyclesLeft s) := by
  obtain ⟨hcfg, -, -, -, hphase⟩ := hinv
  have hdone := busWrite_done s (phaseStep s)
  have hkeeps : (cycleStep s).busy = (phaseStep s).next.busy ∧ (cycleStep s).phase = (phaseStep s).next.phase ∧
      cyclesLeft (cycleStep s) = cyclesLeft (phaseStep s).next := by
    rw [cycleStep, busWrite_busy hb]
    exact ⟨rfl, rfl, rfl⟩
  obtain ⟨hbusy, hp, hleft⟩ := hkeeps
  cases hcomp : (phaseStep s).completed with
  | true =>
    obtain ⟨hidle, hset, -, hnext, -⟩ := phaseStep_completed hcomp
    refine .inl ⟨hbusy.trans hidle, ?_, hp.trans hnext⟩
    rw [cycleStep, endOfCycle_done, hdone]
    simp [hb, hcomp, hset]
  | false =>
    obtain ⟨hwent, -⟩ := phaseStep_went_on hcomp
    obtain ⟨-, hless⟩ := phaseStep_advances hcfg hphase hb hcomp
    exact .inr ⟨hbusy.trans (hwent.trans hb), hleft ▸ hless⟩

/-- A busy block is done within any number of quiet cycles that covers `cyclesLeft`. -/
theorem completes_within (n : Nat) {s : State} (hinv : Inv s) (hb : s.busy = true) (hn : cyclesLeft s ≤ n)
    (hquiet : Quiet n s) :
    ∃ k t, k ≤ n ∧ runCycles k s = .next t ∧ t.busy = false ∧ t.done = true ∧ t.phase = .idle := by
  induction n generalizing s with
  | zero =>
    obtain ⟨-, -, -, -, hphase⟩ := hinv
    have := cyclesLeft_pos hphase hb
    omega
  | succ n ih =>
    have hstep : step s = .next (cycleStep s) := by
      obtain ⟨hcfg, herr, -⟩ := hinv
      exact step_of_no_rst ⟨hcfg, herr⟩ hquiet.no_rst
    rcases cycleStep_completes_or_advances hinv hb with ⟨hidle, hdone, hp⟩ | ⟨hbusy, hless⟩
    · exact ⟨1, cycleStep s, by omega, runCycles_succ hstep 0, hidle, hdone, hp⟩
    · obtain ⟨k, t, hk, hrun, hend⟩ := ih (cycleStep_inv hinv) hbusy (by omega) (hquiet.tail rfl)
      exact ⟨k + 1, t, by omega, (runCycles_succ hstep k).trans hrun, hend⟩

/-- Settles O46: `completes_within`, since `cyclesLeft` is within the maximum. -/
theorem everyCommandCompletes : Obligations.EveryCommandCompletes := by
  intro s hinv hb hquiet
  obtain ⟨-, -, -, -, hphase⟩ := id hinv
  exact completes_within _ hinv hb (cyclesLeft_le hphase) hquiet

end Sys2Proof.Machine
end

section
/-!
The servo's registers read and written (20_memory.md R53, R54, R56), and the bus read (R52).
-/

namespace Sys2Proof.Machine

/-- Splitting a value into its two bytes loses nothing (30_encoding.md R80). -/
@[simp] theorem joinBytes_split (v : Half) : joinBytes (lowByte v) (highByte v) = v := by
  apply BitVec.eq_of_getLsbD_eq
  intro i hi
  simp only [joinBytes, lowByte, highByte, BitVec.getLsbD_append, BitVec.getLsbD_extractLsb']
  by_cases h : i < 8
  · simp [h]
  · simp [h, show i - 8 < 8 by omega, show 8 + (i - 8) = i by omega]

theorem servoRead_servoWrite_same {m : Memory} (a : Byte) (v : Half) (h : m.wf = true) :
    servoRead (servoWrite m a v) a = v := by
  simp only [Memory.wf, Bool.and_eq_true] at h
  obtain ⟨hfrom, -⟩ := h
  have hlow := Memory.write_keeps_wfFrom (2 * a.toNat) (lowByte v) (Nat.zero_le _) hfrom
  rw [servoRead, servoWrite, Memory.read_write_other _ _ _ (by omega), Memory.read_write_same _ _ hfrom,
    Memory.read_write_same _ _ hlow, joinBytes_split]

/-- Two registers share no byte cell (log entry 12). -/
theorem servoRead_servoWrite_other (m : Memory) {a b : Byte} (v : Half) (h : b ≠ a) :
    servoRead (servoWrite m a v) b = servoRead m b := by
  have hne : b.toNat ≠ a.toNat := fun e => h (BitVec.eq_of_toNat_eq e)
  have hcell : ∀ k, k ≠ 2 * a.toNat → k ≠ 2 * a.toNat + 1 → (servoWrite m a v).read k = m.read k := fun k hlo hhi => by
    rw [servoWrite, Memory.read_write_other _ _ _ hhi, Memory.read_write_other _ _ _ hlo]
  rw [servoRead, hcell _ (by omega) (by omega), hcell _ (by omega) (by omega), servoRead]

/-- Settles O39: the register written and the others, each by its own law. -/
theorem servoRegisterReadsBack : Obligations.ServoRegisterReadsBack := by
  intro m a b v h
  split_ifs with hb
  · rw [hb, servoRead_servoWrite_same a v h]
  · exact servoRead_servoWrite_other m v hb

/-- Settles O30: the bus write of a read leaves the phase step's registers, and so does that of no access. -/
theorem busReadHasNoSideEffect : Obligations.BusReadHasNoSideEffect := by
  intro s word env rest
  refine step_access_congr (s := s) (x := readInput word env) (y := idleInput env) rfl rfl ?_
  rw [cycleStep_access (show (readInput word env).env = (idleInput env).env from rfl), cycleStep]
  congr 1

end Sys2Proof.Machine
end

section
/-!
The line while a test servo replies (20_memory.md R57, R59; 30_encoding.md R76): which slot of which character each cycle falls into.
-/

namespace Sys2Proof.Machine

/-! ### The servo's reply -/

/-- The far end answers reads with latency `d`, and `k` cycles after it gave up the line that line reads `after k`: the faithful servo
and the one without pull-up (20_memory.md R57, R59). -/
def FarEnd.Answers (f : FarEnd) (d : Nat) (after : Nat → Level) : Prop :=
  (∃ r m, f = .faithful d r m ∧ after = fun k => if k < r then .L else .H) ∨
    (∃ m, f = .noPullup d m ∧ after = fun _ => .L)

theorem envLevel_of_reply {s : State} {d : Nat} {after : Nat → Level} {reply : Reply} (hfar : s.servo.far.Answers d after)
    (hreply : s.servo.reply = some reply) : envLevel s = replyLevel s.cfg d after reply := by
  rcases hfar with ⟨r, m, hfar, rfl⟩ | ⟨m, hfar, rfl⟩ <;> simp [envLevel, hfar, hreply]

/-- The cycle of a reply in which the start bit of character `i` begins; `charStart p d 7` is where the reply ends. -/
def charStart (p : Params) (d i : Nat) : Nat := replyStart p d + p.bitCycles * (10 * i)

theorem charStart_succ (p : Params) (d i : Nat) : charStart p d (i + 1) = charStart p d i + 10 * p.bitCycles := by
  simp only [charStart, Nat.mul_add]
  omega

theorem charStart_le (p : Params) (d : Nat) {i j : Nat} (h : i ≤ j) : charStart p d i ≤ charStart p d j :=
  Nat.add_le_add_left (Nat.mul_le_mul_left _ (by omega)) _

theorem charStart_seven (p : Params) (d : Nat) : charStart p d 7 = replyStart p d + 70 * p.bitCycles := by
  simp only [charStart, Nat.mul_comm]

theorem replyLevel_before {p : Params} {d : Nat} (after : Nat → Level) {reply : Reply} (h : reply.since < replyStart p d) :
    replyLevel p d after reply = .L := if_pos h

/-- `x` cycles into slot `j` of character `i`, the line has that slot's level. -/
theorem replyLevel_slot {p : Params} {d i j x : Nat} (after : Nat → Level) {reply : Reply} (hi : i < 7) (hj : j < 10)
    (hx : x < p.bitCycles) (h : reply.since = charStart p d i + p.bitCycles * j + x) :
    replyLevel p d after reply = charLevel p (reply.bytes.get i) j := by
  have hsub : reply.since - replyStart p d = p.bitCycles * (10 * i + j) + x := by
    rw [h, charStart, Nat.mul_add]; omega
  have hend : p.bitCycles * (10 * i + j) + p.bitCycles ≤ p.bitCycles * 70 :=
    Nat.mul_le_mul_left p.bitCycles (show 10 * i + j + 1 ≤ 70 by omega)
  have hslot : (p.bitCycles * (10 * i + j) + x) / p.bitCycles = 10 * i + j := by
    rw [Nat.mul_add_div (by omega), Nat.div_eq_of_lt hx, Nat.add_zero]
  have hchar : (p.bitCycles * (10 * i + j) + x) / (10 * p.bitCycles) = i := by
    rw [Nat.mul_comm 10 p.bitCycles, ← Nat.div_div_eq_div_mul, hslot]; omega
  have hstart : replyStart p d ≤ reply.since := by rw [h, charStart]; omega
  rw [replyLevel, if_neg (by omega), if_pos (by omega), hsub, hslot, hchar, show (10 * i + j) % 10 = j by omega]

theorem replyLevel_after {p : Params} {d : Nat} (after : Nat → Level) {reply : Reply} (h : charStart p d 7 ≤ reply.since) :
    replyLevel p d after reply = after (reply.since - charStart p d 7) := by
  rw [charStart_seven] at h ⊢
  rw [replyLevel, if_neg (by omega), if_neg (by omega)]

/-! ### The slots of a character -/

theorem charLevel_start (p : Params) (b : Byte) : charLevel p b 0 = .H := rfl

theorem charLevel_stop (p : Params) (b : Byte) : charLevel p b 9 = .L := rfl

theorem charLevel_data (p : Params) (b : Byte) {j : Nat} (h : j < 8) : charLevel p b (j + 1) = dataLevel p (b.getLsbD j) := by
  simp [charLevel, show ¬j = 8 by omega]

theorem dataLevel_eq (p : Params) (b : Bool) : dataLevel p b = if p.dataInverted = b then .L else .H := by
  unfold dataLevel
  cases p.dataInverted <;> cases b <;> rfl

/-- The receiver's reading of a data level undoes the sender's (40_transceiver.md R91, R98). -/
theorem dataBit_dataLevel (p : Params) (b : Bool) : dataBit p (dataLevel p b) = b := by
  unfold dataBit dataLevel
  cases p.dataInverted <;> cases b <;> rfl

/-- Settles O56: the waveform of `replyLevel`, which both test servos give the line. -/
theorem servoReplyWaveform : Obligations.ServoReplyWaveform := by
  intro s d m reply hreply w B
  refine ⟨fun hfar => ?_, fun r hfar hafter => ?_, fun hfar hafter => ?_⟩
  · obtain ⟨after, hanswers⟩ : ∃ after, s.servo.far.Answers d after := by
      rcases hfar with ⟨r, hfar⟩ | hfar
      · exact ⟨_, .inl ⟨r, m, hfar, rfl⟩⟩
      · exact ⟨_, .inr ⟨m, hfar, rfl⟩⟩
    rw [envLevel_of_reply hanswers hreply]
    have hslot : ∀ {k j x}, k < 7 → j < 10 → x < B → reply.since = w + B * (10 * k + j) + x →
        replyLevel s.cfg d after reply = charLevel s.cfg (reply.bytes.get k) j := by
      intro k j x hk hj hx h
      have h' : reply.since = replyStart s.cfg d + s.cfg.bitCycles * (10 * k + j) + x := h
      refine replyLevel_slot after hk hj hx ?_
      rw [h', Nat.mul_add, charStart]
      omega
    refine ⟨replyLevel_before after, fun k x hk hx => ⟨fun h => ?_, fun j hj h => ?_, fun h => ?_⟩⟩
    · rw [hslot (j := 0) hk (by omega) hx h, charLevel_start]
    · rw [hslot (j := j + 1) hk (by omega) hx (by rw [h, Nat.add_assoc (10 * k), Nat.add_comm 1 j]),
        charLevel_data _ _ hj, dataLevel_eq]
    · rw [hslot (j := 9) hk (by omega) hx h, charLevel_stop]
  all_goals
    have hseven : charStart s.cfg d 7 = w + 70 * B := charStart_seven s.cfg d
  · rw [envLevel_of_reply (.inl ⟨r, m, hfar, rfl⟩) hreply, replyLevel_after _ (by omega), hseven]
    exact if_congr (by omega) rfl rfl
  · rw [envLevel_of_reply (.inr ⟨m, hfar, rfl⟩) hreply, replyLevel_after _ (by omega)]

end Sys2Proof.Machine
end

section
/-!
The cycles of a running command, phase by phase (40_transceiver.md R91 to R100): what the phase step does in each situation of a phase, what
a cycle then leaves of the state, and runs without a reset.
-/

namespace Sys2Proof.Machine

/-! ### Runs without a reset -/

theorem Quiet.mono {n k : Nat} {s : State} (h : Quiet n s) (hk : k ≤ n) : Quiet k s :=
  fun x hx => h x (List.take_subset_take_left _ hk hx)

/-- A run without a reset is the clock cycle, iterated. -/
theorem runCycles_of_quiet {n : Nat} {s : State} (hinv : Inv s) (hquiet : Quiet n s) :
    runCycles n s = .next (cycleStep^[n] s) := by
  induction n generalizing s with
  | zero => rfl
  | succ n ih =>
    obtain ⟨hcfg, herr, -⟩ := id hinv
    rw [runCycles_succ (step_of_no_rst ⟨hcfg, herr⟩ hquiet.no_rst), ih (cycleStep_inv hinv) (hquiet.tail rfl),
      Function.iterate_succ_apply]

theorem iterate_cycleStep_inv (n : Nat) {s : State} (h : Inv s) : Inv (cycleStep^[n] s) :=
  Function.Iterate.rec Inv h (fun _ => cycleStep_inv) n

theorem iterate_cycleStep_cfg (n : Nat) (s : State) : (cycleStep^[n] s).cfg = s.cfg :=
  Function.Iterate.rec (fun t => t.cfg = s.cfg) rfl (fun t => (cycleStep_cfg t).trans) n

theorem iterate_cycleStep_far (n : Nat) (s : State) : (cycleStep^[n] s).servo.far = s.servo.far :=
  Function.Iterate.rec (fun t => t.servo.far = s.servo.far) rfl (fun t => (servoNext_far t).trans) n

/-- A course of states, given by what holds in its `k`-th cycle, is run through up to its `last` one if each cycle leads to the next. -/
theorem course_of_next {P : Nat → State → Prop} {last : Nat} {s : State} (hfirst : P 0 s)
    (hnext : ∀ k t, P k t → k < last → P (k + 1) (cycleStep t)) {k : Nat} (hk : k ≤ last) : P k (cycleStep^[k] s) := by
  induction k with
  | zero => exact hfirst
  | succ k ih =>
    rw [Function.iterate_succ_apply']
    exact hnext k _ (ih (by omega)) (by omega)

/-! ### The phase step in each situation -/

theorem txEnds_iff (s : State) : txEnds s = true ↔ s.t = s.cfg.txCycles s.txlen.toNat - 1 := by simp [txEnds]

theorem phaseStep_tx_counts {s : State} (hp : s.phase = .tx) (ht : s.t ≠ s.cfg.txCycles s.txlen.toNat - 1) :
    phaseStep s = goOn (tick s) := by
  simp [phaseStep, hp, txStep, txEnds_iff, ht]

theorem phaseStep_tx_write_ends {s : State} (hp : s.phase = .tx) (ht : s.t = s.cfg.txCycles s.txlen.toNat - 1)
    (hop : s.op = .writeReg) : phaseStep s = complete .ok s := by
  simp [phaseStep, hp, txStep, txEnds_iff, ht, hop]

theorem phaseStep_tx_read_ends {s : State} (hp : s.phase = .tx) (ht : s.t = s.cfg.txCycles s.txlen.toNat - 1)
    (hop : s.op = .readReg) : phaseStep s = goOn { s with phase := .presence, t := 0 } := by
  simp [phaseStep, hp, txStep, txEnds_iff, ht, hop]

theorem phaseStep_presence_counts {s : State} (hp : s.phase = .presence) (ht : s.t ≠ s.cfg.presenceDelayCycles) :
    phaseStep s = goOn (tick s) := by
  simp [phaseStep, hp, presenceStep, ht]

theorem phaseStep_presence_high {s : State} (hp : s.phase = .presence) (ht : s.t = s.cfg.presenceDelayCycles)
    (hs : s.sync2 = .H) : phaseStep s = complete .noServoDetected s := by
  simp [phaseStep, hp, presenceStep, lineHigh, ht, hs]

theorem phaseStep_presence_low {s : State} (hp : s.phase = .presence) (ht : s.t = s.cfg.presenceDelayCycles)
    (hs : s.sync2 = .L) : phaseStep s = goOn { s with phase := .settle, t := 0 } := by
  simp [phaseStep, hp, presenceStep, lineHigh, ht, hs]

theorem phaseStep_settle_counts {s : State} (hp : s.phase = .settle) (ht : s.t ≠ s.cfg.settleCycles - 1) :
    phaseStep s = goOn (tick s) := by
  simp [phaseStep, hp, settleStep, ht]

theorem phaseStep_settle_ends {s : State} (hp : s.phase = .settle) (ht : s.t = s.cfg.settleCycles - 1) :
    phaseStep s = goOn { s with phase := .rxWait, t := 0, rxidx := 0#3, ferr := false } := by
  simp [phaseStep, hp, settleStep, ht]

theorem phaseStep_rxWait_edge {s : State} (hp : s.phase = .rxWait) (hs : s.sprev = .L) (hs' : s.sync2 = .H) :
    phaseStep s = goOn { s with phase := .rxBits, t := 1 } := by
  simp [phaseStep, hp, rxWaitStep, startEdge, hs, hs']

theorem phaseStep_rxWait_counts {s : State} (hp : s.phase = .rxWait) (hs : s.sync2 = .L)
    (ht : s.t ≠ s.cfg.startTimeoutCycles - 1) : phaseStep s = goOn (tick s) := by
  simp [phaseStep, hp, rxWaitStep, startEdge, hs, ht]

theorem phaseStep_pullup_counts {s : State} (hp : s.phase = .pullup) (hs : s.sync2 = .L)
    (ht : s.t ≠ s.cfg.pullupWindowCycles - 1) : phaseStep s = goOn (tick s) := by
  simp [phaseStep, hp, pullupStep, lineHigh, hs, ht]

theorem phaseStep_pullup_ends {s : State} (hp : s.phase = .pullup) (hs : s.sync2 = .L)
    (ht : s.t = s.cfg.pullupWindowCycles - 1) : phaseStep s = complete .noPullupResistor s := by
  simp [phaseStep, hp, pullupStep, lineHigh, hs, ht]

/-! ### What a cycle leaves -/

@[simp] theorem wentOn_phase (s n : State) : (wentOn s n).phase = n.phase := rfl
@[simp] theorem wentOn_t (s n : State) : (wentOn s n).t = n.t := rfl
@[simp] theorem wentOn_rxidx (s n : State) : (wentOn s n).rxidx = n.rxidx := rfl

/-- A cycle of a busy block whose phase step completes nothing. -/
theorem cycleStep_of_goOn {s n : State} (hb : s.busy = true) (h : phaseStep s = goOn n) : cycleStep s = wentOn s n := by
  obtain ⟨-, hdone, -⟩ := phaseStep_went_on (s := s) (by rw [h]; rfl)
  obtain ⟨-, hovr⟩ := phaseStep_keeps s
  rw [h, goOn_next] at hdone hovr
  rw [cycleStep, h, endOfCycle_busWrite_goOn hb hdone hovr]

/-- A cycle of a busy block whose phase step completes the command. -/
theorem cycleStep_of_complete {s : State} {code : ResultCode} (hb : s.busy = true) (h : phaseStep s = complete code s) :
    cycleStep s =
      completedWith code s { s with rdata := if s.op = .readReg ∧ code = .ok then responseValue s.rxbuf else s.rdata } := by
  rw [cycleStep, h, endOfCycle_busWrite_complete code hb rfl]

/-- What a completion leaves for the host to see (42_sequencer.md R139). -/
theorem cycleStep_completes {s : State} {code : ResultCode} (hb : s.busy = true) (h : phaseStep s = complete code s) :
    (cycleStep s).busy = false ∧ (cycleStep s).done = true ∧ (cycleStep s).err = code.code ∧
      (cycleStep s).rdata = (if s.op = .readReg ∧ code = .ok then responseValue s.rxbuf else s.rdata) ∧
      (cycleStep s).attached = s.attached := by
  rw [cycleStep_of_complete hb h]
  exact ⟨rfl, rfl, rfl, rfl, rfl⟩

/-- `t` is a later state of the command that runs in `s`: the registers that no phase but `EXEC` writes are the same. -/
structure SameCommand (s t : State) : Prop where
  busy : t.busy = true
  cfg : t.cfg = s.cfg
  attached : t.attached = s.attached
  op : t.op = s.op
  addr : t.addr = s.addr
  txbuf : t.txbuf = s.txbuf
  txlen : t.txlen = s.txlen
  rdata : t.rdata = s.rdata
  far : t.servo.far = s.servo.far

theorem SameCommand.refl {s : State} (hb : s.busy = true) : SameCommand s s :=
  ⟨hb, rfl, rfl, rfl, rfl, rfl, rfl, rfl, rfl⟩

theorem SameCommand.trans {s t u : State} (h : SameCommand s t) (h' : SameCommand t u) : SameCommand s u :=
  ⟨h'.busy, h'.cfg.trans h.cfg, h'.attached.trans h.attached, h'.op.trans h.op, h'.addr.trans h.addr,
    h'.txbuf.trans h.txbuf, h'.txlen.trans h.txlen, h'.rdata.trans h.rdata, h'.far.trans h.far⟩

theorem SameCommand.txFrame_eq {s t : State} (h : SameCommand s t) : txFrame t = txFrame s := by
  rw [txFrame, txFrame, h.txbuf, h.txlen]

theorem sameCommand_cycleStep {s n : State} (hb : s.busy = true) (h : phaseStep s = goOn n) :
    SameCommand s (cycleStep s) := by
  rw [cycleStep_of_goOn hb h]
  rcases phaseStep_cases s with ⟨code, a, e⟩ | ⟨_, _, _, _, _, _, e⟩ <;> rw [e] at h <;> cases h
  exact ⟨hb, rfl, rfl, rfl, rfl, rfl, rfl, rfl, servoNext_far s⟩

end Sys2Proof.Machine
end

section
/-!
A command from its acceptance to the end of its frame (42_sequencer.md R125, R133, R134; 40_transceiver.md R91): the frame stands in the
buffer for all of `TX`, and at its end a test servo takes it (20_memory.md R56, R57; log entry 13).
-/

namespace Sys2Proof.Machine

/-! ### The requests the block sends -/

/-- What a servo reads from `BuildWriteFrame`'s bytes (30_encoding.md R77; 41_framer.md R112). -/
theorem decodeRequest_writeFrame (addr : Byte) (value : Half) :
    decodeRequest (writeFrame addr value).bytes =
      .ok (.wireWriteRequest addr (lowByte value) (highByte value)
        (writeRequestCks addr (lowByte value) (highByte value))) := by
  simp [writeFrame, writeRequestBuf, FrameBuf.bytes, decodeRequest]

/-- What a servo reads from `BuildReadFrame`'s bytes (30_encoding.md R78; 41_framer.md R113). -/
theorem decodeRequest_readFrame (addr : Byte) (old : FrameBuf) :
    decodeRequest ((readFrame addr old).bytes.take 5) = .ok (.wireReadRequest addr (readRequestCks addr)) := by
  simp [readFrame, readRequestBuf, FrameBuf.bytes, decodeRequest]

theorem servoTake_write {m : Byte} {bytes : List Byte} {v : Servo} {a lo hi c : Byte}
    (h : decodeRequest bytes = .ok (.wireWriteRequest a lo hi c)) :
    servoTake m bytes v = { v with regs := servoWrite v.regs a (joinBytes lo hi) } := by
  simp only [servoTake, h]

theorem servoTake_read {m : Byte} {bytes : List Byte} {v : Servo} {a c : Byte}
    (h : decodeRequest bytes = .ok (.wireReadRequest a c)) :
    servoTake m bytes v = { v with reply := some ⟨0, responseFrame m a (servoRead v.regs a)⟩ } := by
  simp only [servoTake, h]

/-- The far end is one of the two test servos that take requests, with mystery byte `m`. -/
def FarEnd.Takes (f : FarEnd) (m : Byte) : Prop := (∃ d r, f = .faithful d r m) ∨ ∃ d, f = .noPullup d m

theorem servoNext_of_txEnd {s : State} {m : Byte} (hp : s.phase = .tx) (ht : s.t = s.cfg.txCycles s.txlen.toNat - 1)
    (hfar : s.servo.far.Takes m) : servoNext s = servoTake m (txFrame s) (servoAdvance s.servo) := by
  have hend : s.phase = .tx ∧ txEnds s = true := ⟨hp, (txEnds_iff s).mpr ht⟩
  rw [servoNext, if_pos hend]
  rcases hfar with ⟨d, r, hfar⟩ | ⟨d, hfar⟩ <;> rw [hfar]

/-! ### Acceptance -/

/-- `t` is the state after `s` in which a command `op addr` has just been accepted whose frame a servo reads as `request`. -/
structure Accepted (op : Op) (addr : Byte) (len : BitVec 3) (request : Instr) (s t : State) : Prop where
  busy : t.busy = true
  phase : t.phase = .tx
  count : t.t = 0
  op : t.op = op
  addr : t.addr = addr
  txlen : t.txlen = len
  request : decodeRequest (txFrame t) = .ok request
  cfg : t.cfg = s.cfg
  attached : t.attached = true
  rdata : t.rdata = s.rdata
  far : t.servo.far = s.servo.far
  regs : t.servo.regs = s.servo.regs

/-- The word an idle block fetches is the one the host writes to `CMD`. -/
theorem fetch_of_idle {s : State} {i : Instr} (hb : s.busy = false) (h : fetch s = some i) :
    (currentInput s).writesCmd = true ∧ decodeWord (currentInput s).busWdata = i := by
  unfold fetch at h
  split_ifs at h with hbusy hw
  · exact absurd hbusy (by simp [hb])
  · exact ⟨hw, Option.some.inj h⟩

/-- An idle block's cycle with a command is its acceptance. -/
theorem cycleStep_of_fetch {s : State} {i : Instr} (hinv : Inv s) (hb : s.busy = false) (h : fetch s = some i) :
    ∃ w, decodeWord w = i ∧ cycleStep s = endOfCycle s (acceptWord w s) := by
  obtain ⟨-, -, -, -, hphase⟩ := hinv
  obtain ⟨hp, -⟩ := idle_of_not_busy hphase hb
  obtain ⟨hw, hi⟩ := fetch_of_idle hb h
  refine ⟨_, hi, ?_⟩
  simp only [CycleInput.writesCmd, Bool.and_eq_true, beq_iff_eq] at hw
  obtain ⟨hwrites, hword⟩ := hw
  simp [cycleStep, phaseStep, hp, busWrite, hb, hwrites, hword]

/-- The far end of an idle block has no frame to take. -/
theorem servoNext_of_idle {s : State} (hinv : Inv s) (hb : s.busy = false) : servoNext s = servoAdvance s.servo := by
  obtain ⟨-, -, -, -, hphase⟩ := hinv
  obtain ⟨hp, -⟩ := idle_of_not_busy hphase hb
  exact servoNext_of_not_txEnd (by simp [hp])

/-- The kind and the fields of a word that decodes to a write. -/
theorem wordKind_of_writeReg {w : Word} {addr : Byte} {value : Half} (h : decodeWord w = .writeReg addr value) :
    wordKind w = .writeReg ∧ addrField w = addr ∧ valueField w = value := by
  unfold decodeWord at h
  unfold wordKind
  split_ifs at h
  cases h
  simp_all

/-- The instruction is a read of register `addr`; `READ_MODEL` reads register 0 (30_encoding.md R84). -/
def ReadsRegister (i : Instr) (addr : Byte) : Prop :=
  (∃ value, i = .readReg addr value) ∨ (i = .readModel ∧ addr = 0x00#8)

theorem IsRead.readsRegister {i : Instr} (h : IsRead i) : ∃ addr, ReadsRegister i addr := by
  rcases h with rfl | ⟨addr, value, rfl⟩
  · exact ⟨0x00#8, .inr ⟨rfl, rfl⟩⟩
  · exact ⟨addr, .inl ⟨value, rfl⟩⟩

/-- The kind and the address of a word that decodes to a read. -/
theorem wordKind_of_read {w : Word} {addr : Byte} (h : ReadsRegister (decodeWord w) addr) :
    wordKind w = .readReg ∧ addrField w = addr := by
  unfold decodeWord at h
  unfold wordKind
  split_ifs at h <;> simp_all [ReadsRegister]

theorem accepted_write {s : State} {addr : Byte} {value : Half} (hinv : Inv s) (hatt : s.attached = true)
    (hb : s.busy = false) (hf : fetch s = some (.writeReg addr value)) :
    Accepted .writeReg addr 7#3 (.wireWriteRequest addr (lowByte value) (highByte value)
      (writeRequestCks addr (lowByte value) (highByte value))) s (cycleStep s) := by
  obtain ⟨w, hw, hstep⟩ := cycleStep_of_fetch hinv hb hf
  obtain ⟨hkind, haddr, hvalue⟩ := wordKind_of_writeReg hw
  rw [hstep, acceptWord, hkind, haddr, hvalue]
  simp only [acceptWrite, hatt, if_true]
  exact ⟨rfl, rfl, rfl, rfl, rfl, rfl, decodeRequest_writeFrame addr value, rfl, hatt, rfl, servoNext_far s,
    by rw [endOfCycle_servo, servoNext_of_idle hinv hb, servoAdvance_regs]⟩

theorem accepted_read {s : State} {i : Instr} {addr : Byte} (hinv : Inv s) (hatt : s.attached = true)
    (hb : s.busy = false) (hread : ReadsRegister i addr) (hf : fetch s = some i) :
    Accepted .readReg addr 5#3 (.wireReadRequest addr (readRequestCks addr)) s (cycleStep s) := by
  obtain ⟨w, rfl, hstep⟩ := cycleStep_of_fetch hinv hb hf
  obtain ⟨hkind, haddr⟩ := wordKind_of_read hread
  rw [hstep, acceptWord, hkind, haddr]
  simp only [acceptRead, hatt, if_true]
  exact ⟨rfl, rfl, rfl, rfl, rfl, rfl, decodeRequest_readFrame addr s.txbuf, rfl, hatt, rfl, servoNext_far s,
    by rw [endOfCycle_servo, servoNext_of_idle hinv hb, servoAdvance_regs]⟩

/-! ### Sending -/

/-- `s` is in `TX`, `n` cycles after the acceptance that left `s₁`. -/
structure Sends (s₁ : State) (n : Nat) (s : State) : Prop where
  same : SameCommand s₁ s
  phase : s.phase = .tx
  count : s.t = n
  regs : s.servo.regs = s₁.servo.regs

theorem Sends.next {s₁ s : State} {n : Nat} (h : Sends s₁ n s) (hn : n < s₁.cfg.txCycles s₁.txlen.toNat - 1) :
    Sends s₁ (n + 1) (cycleStep s) := by
  have hlast : s.t ≠ s.cfg.txCycles s.txlen.toNat - 1 := by
    rw [h.count, h.same.cfg, h.same.txlen]
    omega
  have hstep := phaseStep_tx_counts h.phase hlast
  have hservo : (cycleStep s).servo = servoAdvance s.servo :=
    servoNext_of_not_txEnd fun hend => hlast ((txEnds_iff s).mp hend.2)
  refine ⟨h.same.trans (sameCommand_cycleStep h.same.busy hstep), ?_, ?_, by rw [hservo]; exact h.regs⟩ <;>
    rw [cycleStep_of_goOn h.same.busy hstep]
  · exact h.phase
  · exact congrArg (· + 1) h.count

/-- From its acceptance on a command is in `TX` until the last cycle of its frame. -/
theorem Accepted.sends {op : Op} {addr : Byte} {len : BitVec 3} {request : Instr} {s s₁ : State}
    (h : Accepted op addr len request s s₁) {n : Nat} (hn : n ≤ s.cfg.txCycles len.toNat - 1) :
    Sends s₁ n (cycleStep^[n] s₁) := by
  refine course_of_next ⟨.refl h.busy, h.phase, h.count, rfl⟩ (fun k t ht hk => ht.next hk) ?_
  rwa [h.cfg, h.txlen]

/-- The state in the last cycle of the frame; its count is the last one of `TX`. -/
theorem Accepted.last {op : Op} {addr : Byte} {len : BitVec 3} {request : Instr} {s s₁ : State}
    (h : Accepted op addr len request s s₁) :
    ∃ u, cycleStep^[s.cfg.txCycles len.toNat - 1] s₁ = u ∧ Sends s₁ (s.cfg.txCycles len.toNat - 1) u ∧
      u.t = u.cfg.txCycles u.txlen.toNat - 1 := by
  have hsends := h.sends (Nat.le_refl _)
  refine ⟨_, rfl, hsends, ?_⟩
  rw [hsends.count, hsends.same.cfg, hsends.same.txlen, h.cfg, h.txlen]

/-! ### A write -/

theorem txCycles_pos {p : Params} (h : p.valid = true) (k : Nat) : 0 < p.txCycles k := by
  obtain ⟨hbit, -⟩ := params_of_valid h
  exact Nat.mul_pos (by omega) (by omega)

/-- An attached write to a test servo ends with its frame, and the servo has written the register. -/
theorem write_completes {s : State} {addr : Byte} {value : Half} {m : Byte} (hinv : Inv s) (hatt : s.attached = true)
    (hb : s.busy = false) (hf : fetch s = some (.writeReg addr value)) (hfar : s.servo.far.Takes m) :
    (cycleStep^[71 * s.cfg.bitCycles + 1] s).busy = false ∧ (cycleStep^[71 * s.cfg.bitCycles + 1] s).err = 0#3 ∧
      (cycleStep^[71 * s.cfg.bitCycles + 1] s).servo.regs = servoWrite s.servo.regs addr value := by
  have hacc := accepted_write hinv hatt hb hf
  obtain ⟨u, hu, hsends, hlast⟩ := hacc.last
  have hlen : 71 * s.cfg.bitCycles = s.cfg.txCycles (7#3).toNat - 1 + 1 := by
    rw [Nat.sub_add_cancel (txCycles_pos hinv.1 _)]
    simp [Params.txCycles, Nat.mul_comm]
  have hend := phaseStep_tx_write_ends hsends.phase hlast (hsends.same.op.trans hacc.op)
  have htake := servoNext_of_txEnd hsends.phase hlast (m := m) (by rwa [hsends.same.far, hacc.far])
  have hreq := hsends.same.txFrame_eq ▸ hacc.request
  rw [Function.iterate_succ_apply, hlen, Function.iterate_succ_apply', hu]
  obtain ⟨hbusy, -, herr, -⟩ := cycleStep_completes hsends.same.busy hend
  refine ⟨hbusy, herr, ?_⟩
  rw [show (cycleStep u).servo = servoNext u from rfl, htake, servoTake_write hreq, joinBytes_split, servoAdvance_regs,
    hsends.regs, hacc.regs]

/-- Settles O48: `write_completes`, read back with `servoRegisterReadsBack`. -/
theorem writeRegReachesTheServo : Obligations.WriteRegReachesTheServo := by
  intro s addr b value d r m hinv hatt hb hf hquiet hfar
  obtain ⟨hbusy, herr, hregs⟩ := write_completes hinv hatt hb hf (.inl ⟨d, r, hfar⟩)
  refine ⟨_, runCycles_of_quiet hinv hquiet, hbusy, herr, ?_⟩
  obtain ⟨-, -, -, hwf, -⟩ := hinv
  rw [hregs, servoRegisterReadsBack _ _ _ _ hwf]

end Sys2Proof.Machine
end

section
/-!
A read after its request (40_transceiver.md R92, R94, R95; 20_memory.md R58): the block has given up the line, the far end alone sets it,
and the synchroniser shows it two cycles later.
-/

namespace Sys2Proof.Machine

/-! ### The released line -/

/-- The block has given up the line for the answer to a read (40_transceiver.md R90). -/
def Phase.Listens (p : Phase) : Prop := p = .presence ∨ p = .settle ∨ p = .rxWait ∨ p = .rxBits ∨ p = .pullup

theorem Phase.Listens.not_tx {p : Phase} (h : p.Listens) : p ≠ .tx := by
  rcases h with rfl | rfl | rfl | rfl | rfl <;> decide

/-- Left to itself from `s₀` on, the far end gives the line the level `line k` in the `k`-th cycle. -/
def Hears (s₀ : State) (line : Nat → Level) : Prop :=
  ∀ k s, s.cfg = s₀.cfg → s.servo = servoAdvance^[k] s₀.servo → envLevel s = line k

theorem servoAdvance_iterate_far (k : Nat) (v : Servo) : (servoAdvance^[k] v).far = v.far :=
  Function.Iterate.rec (fun u => u.far = v.far) rfl (f := servoAdvance) (fun _ => id) k

theorem servoAdvance_iterate_reply {v : Servo} {bytes : FrameBuf} (h : v.reply = some ⟨0, bytes⟩) (k : Nat) :
    (servoAdvance^[k] v).reply = some ⟨k, bytes⟩ := by
  induction k with
  | zero => exact h
  | succ k ih => rw [Function.iterate_succ_apply', servoAdvance_reply, ih]; rfl

/-- With no servo the released line is high (20_memory.md R58). -/
theorem hears_absent {s₀ : State} (h : s₀.servo.far = .absent) : Hears s₀ fun _ => .H := by
  intro k s _ hservo
  have hfar : s.servo.far = .absent := by rw [hservo, servoAdvance_iterate_far, h]
  simp [envLevel, hfar]

/-- A test servo that has just taken a read gives the line its reply (20_memory.md R57, R59). -/
theorem hears_reply {s₀ : State} {d : Nat} {after : Nat → Level} {bytes : FrameBuf} (hfar : s₀.servo.far.Answers d after)
    (hreply : s₀.servo.reply = some ⟨0, bytes⟩) : Hears s₀ fun k => replyLevel s₀.cfg d after ⟨k, bytes⟩ := by
  intro k s hcfg hservo
  rw [← hcfg]
  refine envLevel_of_reply (reply := ⟨k, bytes⟩) ?_ ?_
  · rwa [hservo, servoAdvance_iterate_far]
  · rw [hservo, servoAdvance_iterate_reply hreply]

/-- `s` is the state `k` cycles after `s₀`, in which a read gave up the line. -/
structure Follows (s₀ : State) (line : Nat → Level) (k : Nat) (s : State) : Prop where
  same : SameCommand s₀ s
  servo : s.servo = servoAdvance^[k] s₀.servo
  sync1 : ∀ j, k = j + 1 → s.sync1 = line j
  sync2 : ∀ j, k = j + 2 → s.sync2 = line j
  sprev : ∀ j, k = j + 3 → s.sprev = line j

theorem Follows.refl {s₀ : State} (line : Nat → Level) (hb : s₀.busy = true) : Follows s₀ line 0 s₀ :=
  ⟨.refl hb, rfl, by simp, by simp, by simp⟩

section
variable {s₀ s n : State} {line : Nat → Level} {k : Nat}

theorem Follows.next (h : Follows s₀ line k s) (hears : Hears s₀ line) (hp : s.phase.Listens)
    (hstep : phaseStep s = goOn n) : Follows s₀ line (k + 1) (cycleStep s) where
  same := h.same.trans (sameCommand_cycleStep h.same.busy hstep)
  servo := by
    rw [Function.iterate_succ_apply', ← h.servo]
    exact servoNext_of_not_txEnd fun hend => hp.not_tx hend.1
  sync1 j hj := by
    obtain rfl : k = j := by omega
    exact (wire_released (lineDrive_of_receiving hp)).trans (hears k s h.same.cfg h.servo)
  sync2 j hj := h.sync1 j (by omega)
  sprev j hj := h.sync2 j (by omega)

/-! ### The presence check -/

/-- The course of `PRESENCE`: the count is the number of cycles since the line was given up. -/
def AwaitsPresence (s₀ : State) (line : Nat → Level) (k : Nat) (s : State) : Prop :=
  Follows s₀ line k s ∧ s.phase = .presence ∧ s.t = k

theorem AwaitsPresence.next (h : AwaitsPresence s₀ line k s) (hears : Hears s₀ line)
    (hk : k < s₀.cfg.presenceDelayCycles) : AwaitsPresence s₀ line (k + 1) (cycleStep s) := by
  obtain ⟨hfollows, hp, ht⟩ := h
  have hstep := phaseStep_presence_counts hp (by rw [ht, hfollows.same.cfg]; omega)
  refine ⟨hfollows.next hears (.inl hp) hstep, ?_, ?_⟩ <;> rw [cycleStep_of_goOn hfollows.same.busy hstep]
  · exact hp
  · exact congrArg (· + 1) ht

theorem awaitsPresence (hb : s₀.busy = true) (hp : s₀.phase = .presence) (ht : s₀.t = 0) (hears : Hears s₀ line)
    (hk : k ≤ s₀.cfg.presenceDelayCycles) : AwaitsPresence s₀ line k (cycleStep^[k] s₀) :=
  course_of_next ⟨.refl line hb, hp, ht⟩ (fun _ _ h hlt => h.next hears hlt) hk

end

/-! ### From the acceptance of a read to the released line -/

/-- `s₀` is the state after `s` has accepted a read of register `a` and its request has been sent: the line is given up. -/
structure Released (a : Byte) (s s₀ : State) : Prop where
  busy : s₀.busy = true
  phase : s₀.phase = .presence
  count : s₀.t = 0
  op : s₀.op = .readReg
  addr : s₀.addr = a
  cfg : s₀.cfg = s.cfg
  attached : s₀.attached = true
  rdata : s₀.rdata = s.rdata
  far : s₀.servo.far = s.servo.far
  reply : ∀ m, s.servo.far.Takes m → s₀.servo.reply = some ⟨0, responseFrame m a (servoRead s.servo.regs a)⟩

section
variable {s : State} {i : Instr} {addr : Byte}

theorem txCycles_read_eq {p : Params} (h : p.valid = true) : 51 * p.bitCycles = p.txCycles (5#3).toNat - 1 + 1 := by
  rw [Nat.sub_add_cancel (txCycles_pos h _)]
  simp [Params.txCycles, Nat.mul_comm]

/-- The state after `s` has accepted a read and its request has been sent. -/
def afterRequest (s : State) : State := cycleStep^[51 * s.cfg.bitCycles] (cycleStep s)

/-- An attached read gives up the line `51*BIT_CYCLES` cycles after its acceptance, and a test servo starts its reply. -/
theorem read_released (hinv : Inv s) (hatt : s.attached = true) (hb : s.busy = false) (hread : ReadsRegister i addr)
    (hf : fetch s = some i) : Released addr s (afterRequest s) := by
  have hacc := accepted_read hinv hatt hb hread hf
  obtain ⟨u, hu, hsends, hlast⟩ := hacc.last
  have hop := hsends.same.op.trans hacc.op
  have hstep := phaseStep_tx_read_ends hsends.phase hlast hop
  have hsame := hsends.same.trans (sameCommand_cycleStep hsends.same.busy hstep)
  rw [afterRequest, txCycles_read_eq hinv.1, Function.iterate_succ_apply', hu]
  refine ⟨hsame.busy, ?_, ?_, hsame.op.trans hacc.op, hsame.addr.trans hacc.addr, hsame.cfg.trans hacc.cfg,
    hsame.attached.trans hacc.attached, hsame.rdata.trans hacc.rdata, hsame.far.trans hacc.far, fun m hfar => ?_⟩
  · rw [cycleStep_of_goOn hsends.same.busy hstep, wentOn_phase]
  · rw [cycleStep_of_goOn hsends.same.busy hstep, wentOn_t]
  · have htake := servoNext_of_txEnd hsends.phase hlast (m := m) (by rwa [hsends.same.far, hacc.far])
    rw [show (cycleStep u).servo = servoNext u from rfl, htake,
      servoTake_read (hsends.same.txFrame_eq ▸ hacc.request), servoAdvance_regs, hsends.regs, hacc.regs]

/-- The cycles of a read that come after its request. -/
theorem iterate_afterRequest (s : State) (k : Nat) :
    cycleStep^[k] (afterRequest s) = cycleStep^[51 * s.cfg.bitCycles + k + 1] s := by
  rw [afterRequest, ← Function.iterate_add_apply, ← Function.iterate_succ_apply, Nat.add_comm k]

/-- A read that completes `last` cycles after its request: it is busy from its acceptance until then, and what it leaves. -/
theorem read_ends (hinv : Inv s) (hatt : s.attached = true) (hb : s.busy = false) (hread : ReadsRegister i addr)
    (hf : fetch s = some i) {line : Nat → Level} {last : Nat} {code : ResultCode}
    (hfollows : ∀ k, k ≤ last → Follows (afterRequest s) line k (cycleStep^[k] (afterRequest s)))
    (hend : phaseStep (cycleStep^[last] (afterRequest s)) = complete code (cycleStep^[last] (afterRequest s)))
    (hquiet : Quiet (51 * s.cfg.bitCycles + last + 2) s) :
    (∀ n, n < 51 * s.cfg.bitCycles + last + 1 → ∃ t, runCycles (n + 1) s = .next t ∧ t.busy = true) ∧
    ∃ t, runCycles (51 * s.cfg.bitCycles + last + 2) s = .next t ∧ t.busy = false ∧ t.done = true ∧ t.err = code.code ∧
      t.rdata = (if code = .ok then responseValue (cycleStep^[last] (afterRequest s)).rxbuf else s.rdata) ∧
      t.attached = true := by
  have hrel := read_released hinv hatt hb hread hf
  refine ⟨fun n hn => ⟨_, runCycles_of_quiet hinv (hquiet.mono (by omega)), ?_⟩,
    _, runCycles_of_quiet hinv hquiet, ?_⟩
  · by_cases hsends : n < 51 * s.cfg.bitCycles
    · have hlen := txCycles_read_eq hinv.1
      exact ((accepted_read hinv hatt hb hread hf).sends (n := n) (by omega)).same.busy
    · have h := (hfollows (n - 51 * s.cfg.bitCycles) (by omega)).same.busy
      rwa [iterate_afterRequest, Nat.add_sub_cancel' (by omega)] at h
  · have hsame := (hfollows last (Nat.le_refl _)).same
    obtain ⟨hbusy, hdone, herr, hrdata, hattached⟩ := cycleStep_completes hsame.busy hend
    rw [Function.iterate_succ_apply', ← iterate_afterRequest]
    refine ⟨hbusy, hdone, herr, ?_, hattached.trans (hsame.attached.trans hrel.attached)⟩
    rw [hrdata, hsame.op, hrel.op, hsame.rdata, hrel.rdata]
    simp

end

/-- Settles O49: at the one sample of `PRESENCE` the released line is high. -/
theorem absentServoIsDetected : Obligations.AbsentServoIsDetected := by
  intro s i hinv hatt hb hi hf hquiet hfar
  obtain ⟨addr, hread⟩ := hi.readsRegister
  have hrel := read_released hinv hatt hb hread hf
  have hcourse := fun k (hk : k ≤ s.cfg.presenceDelayCycles) =>
    awaitsPresence (k := k) hrel.busy hrel.phase hrel.count (hears_absent (hrel.far.trans hfar)) (by rwa [hrel.cfg])
  refine read_ends hinv hatt hb hread hf (code := .noServoDetected) (fun k hk => (hcourse k hk).1) ?_ hquiet
  obtain ⟨hfollows, hp, ht⟩ := hcourse _ (Nat.le_refl _)
  obtain ⟨-, hpresence, -⟩ := params_of_valid hinv.1
  refine phaseStep_presence_high hp (by rw [ht, hfollows.same.cfg, hrel.cfg]) ?_
  exact hfollows.sync2 (s.cfg.presenceDelayCycles - 2) (by omega)

end Sys2Proof.Machine
end

section
/-!
The bytes of a reply in the receiver (40_transceiver.md R98): sample points, the bits of `shift` and the bytes of the buffer.
-/

namespace Sys2Proof.Machine

/-! ### Buffers and bits -/

theorem FrameBuf.get_set (f : FrameBuf) {i : Nat} (b : Byte) (hi : i < 7) (j : Nat) :
    (f.set i b).get j = if j = i then b else f.get j := by
  interval_cases i <;> rcases j with _ | _ | _ | _ | _ | _ | _ | j <;> simp [FrameBuf.set, FrameBuf.get]

theorem FrameBuf.eq_of_get {f g : FrameBuf} (h : ∀ j, j < 7 → f.get j = g.get j) : f = g := by
  have h0 := h 0 (by decide)
  have h1 := h 1 (by decide)
  have h2 := h 2 (by decide)
  have h3 := h 3 (by decide)
  have h4 := h 4 (by decide)
  have h5 := h 5 (by decide)
  have h6 := h 6 (by decide)
  cases f
  cases g
  simp_all [FrameBuf.get]

/-- The effect of `shift[j] <- b` on each bit. -/
theorem setBit_getLsbD (v : Byte) {j k : Nat} (b : Bool) (hk : k < 8) :
    (setBit v j b).getLsbD k = if k = j then b else v.getLsbD k := by
  have hmask : ((1#8) <<< j).getLsbD k = decide (k = j) := by
    by_cases h : k < j
    · simp [h, show k ≠ j by omega]
    · simp [hk, h, show (k - j = 0) ↔ k = j by omega]
  cases b <;>
    simp only [setBit, Bool.false_eq_true, if_true, if_false, BitVec.getLsbD_or, BitVec.getLsbD_and, BitVec.getLsbD_not,
      hmask, hk] <;>
    by_cases h : k = j <;> simp [h]

/-! ### Sample points -/

theorem samplePoint_lt_iff {p : Params} (hbit : 0 < p.bitCycles) {j k : Nat} :
    p.samplePoint j < p.samplePoint k ↔ j < k := by
  simp [Params.samplePoint, hbit]

theorem samplePoint_injective {p : Params} (hbit : 0 < p.bitCycles) : Function.Injective p.samplePoint :=
  (strictMono_nat_of_lt_succ fun j => (samplePoint_lt_iff hbit).mpr (Nat.lt_succ_self j)).injective

/-- In the cycle of sample point `j` the receiver takes sample `j`. -/
theorem atSample_samplePoint {s : State} {j : Nat} (ht : s.t = s.cfg.samplePoint j) (hbit : 0 < s.cfg.bitCycles) :
    atSample s = true ∧ sampleIndex s = j := by
  have hsub : s.t - (s.cfg.bitCycles + s.cfg.halfCycles) = j * s.cfg.bitCycles := by
    rw [ht, Params.samplePoint, Nat.add_sub_cancel_left]
  have hle : s.cfg.bitCycles + s.cfg.halfCycles ≤ s.t := ht ▸ Nat.le_add_right _ _
  exact ⟨by simp [atSample, hsub, hle], by rw [sampleIndex, hsub, Nat.mul_div_cancel _ hbit]⟩

/-- The receiver takes samples at the sample points only. -/
theorem samplePoint_of_atSample {s : State} (h : atSample s = true) : s.t = s.cfg.samplePoint (sampleIndex s) := by
  simp only [atSample, Bool.and_eq_true, decide_eq_true_eq] at h
  obtain ⟨hle, hmod⟩ := h
  rw [Params.samplePoint, sampleIndex, Nat.div_mul_cancel (Nat.dvd_of_mod_eq_zero hmod)]
  omega

theorem phaseStep_rxBits_counts {s : State} (hp : s.phase = .rxBits) (ht : ∀ j, s.t ≠ s.cfg.samplePoint j) :
    phaseStep s = goOn (tick s) := by
  have hno : atSample s = false := by
    cases h : atSample s
    · rfl
    · exact absurd (samplePoint_of_atSample h) (ht _)
  simp [phaseStep, hp, rxBitsStep, hno]

theorem phaseStep_rxBits_data {s : State} {j : Nat} (hp : s.phase = .rxBits) (hbit : 0 < s.cfg.bitCycles)
    (ht : s.t = s.cfg.samplePoint j) (hj : j < 8) :
    phaseStep s = goOn (tick { s with shift := setBit s.shift j (dataBit s.cfg s.sync2) }) := by
  obtain ⟨hat, hidx⟩ := atSample_samplePoint ht hbit
  simp [phaseStep, hp, rxBitsStep, hat, hidx, show j ≤ 7 by omega]

theorem phaseStep_rxBits_stop {s : State} (hp : s.phase = .rxBits) (hbit : 0 < s.cfg.bitCycles)
    (ht : s.t = s.cfg.samplePoint 8) : phaseStep s = goOn (stopSample s) := by
  obtain ⟨hat, hidx⟩ := atSample_samplePoint ht hbit
  simp [phaseStep, hp, rxBitsStep, hat, hidx]

theorem stopSample_last {s : State} (hidx : s.rxidx.toNat = 6) :
    stopSample s =
      { s with ferr := s.ferr || lineHigh s, rxbuf := s.rxbuf.set s.rxidx.toNat s.shift, phase := .pullup, t := 0 } := by
  rw [stopSample, if_pos (BitVec.eq_of_toNat_eq hidx)]

theorem stopSample_more {s : State} (hidx : s.rxidx.toNat < 6) :
    stopSample s =
      { s with ferr := s.ferr || lineHigh s, rxbuf := s.rxbuf.set s.rxidx.toNat s.shift, rxidx := s.rxidx + 1#3,
               phase := .rxWait, t := 0 } := by
  have hne : s.rxidx ≠ 6#3 := fun h => by rw [h] at hidx; exact absurd hidx (by decide)
  rw [stopSample, if_neg hne]

end Sys2Proof.Machine
end

section
/-!
A read that a test servo answers, cycle by cycle (20_memory.md R57, R59; 40_transceiver.md R95 to R100): for each part of the reception, what
holds in its `k`-th cycle after the line was given up, and that every cycle leads to the next. Each character's start edge falls into
its window, each sample into the middle of its slot.
-/

namespace Sys2Proof.Machine

/-- How a test servo answers: its latency, the line after its reply, and the bytes it sends. -/
structure Answer where
  d : Nat
  after : Nat → Level
  bytes : FrameBuf

/-- The line `k` cycles after the block gave it up (20_memory.md R57, R59). -/
def Answer.line (a : Answer) (p : Params) (k : Nat) : Level := replyLevel p a.d a.after ⟨k, a.bytes⟩

/-- The answer meets the block's windows for start bits (log entry 21). -/
structure Answer.Meets (a : Answer) (p : Params) : Prop where
  latency : a.d + 3 ≤ p.startTimeoutCycles
  window : p.bitCycles ≤ p.startTimeoutCycles + p.halfCycles

/-- The cycle in which the window for the start bit of byte `i` opens, in cycles since the line was given up; for `i = 7` the window of the
pull-up check. The receiver sees the line two cycles late. -/
def windowStart (p : Params) (d : Nat) : Nat → Nat
  | 0 => p.presenceDelayCycles + 1 + p.settleCycles
  | i + 1 => charStart p d i + 2 + (p.samplePoint 8 + 1)

/-! ### The line at the cycles that matter -/

section
variable {p : Params} (a : Answer) {i j q : Nat}

theorem charStart_zero (p : Params) (d : Nat) : charStart p d 0 = windowStart p d 0 + d := rfl

/-- From where a window could first look back to, the line is low up to the start bit. -/
theorem Answer.line_before_char (hi : i ≤ 7) (hfrom : windowStart p a.d i ≤ q + 2) (hto : q < charStart p a.d i) :
    a.line p q = .L := by
  cases i with
  | zero => exact replyLevel_before _ hto
  | succ i =>
    have hsucc := charStart_succ p a.d i
    simp only [windowStart, Params.samplePoint] at hfrom
    rw [Answer.line, replyLevel_slot (i := i) (j := 9) (x := q - (charStart p a.d i + p.bitCycles * 9)) a.after
      (by omega) (by decide) (by omega) (by show q = _; omega)]
    exact charLevel_stop _ _

theorem Answer.line_start (hbit : 32 ≤ p.bitCycles) (hi : i < 7) : a.line p (charStart p a.d i) = .H := by
  rw [Answer.line, replyLevel_slot (j := 0) (x := 0) a.after hi (by decide) (by omega) (by simp)]
  exact charLevel_start _ _

/-- Sample point `j`, counted from the start bit's first cycle, lies in slot `j + 1`. -/
theorem Answer.line_sample (hbit : 32 ≤ p.bitCycles) (hi : i < 7) (hj : j < 9) :
    a.line p (charStart p a.d i + p.samplePoint j) = charLevel p (a.bytes.get i) (j + 1) := by
  refine replyLevel_slot (x := p.halfCycles) a.after hi (by omega) (by unfold Params.halfCycles; omega) ?_
  simp only [Params.samplePoint, Nat.mul_comm p.bitCycles, Nat.succ_mul]
  omega

theorem Answer.line_data (hbit : 32 ≤ p.bitCycles) (hi : i < 7) (hj : j < 8) :
    dataBit p (a.line p (charStart p a.d i + p.samplePoint j)) = (a.bytes.get i).getLsbD j := by
  rw [a.line_sample hbit hi (by omega), charLevel_data _ _ hj, dataBit_dataLevel]

theorem Answer.line_stop (hbit : 32 ≤ p.bitCycles) (hi : i < 7) :
    a.line p (charStart p a.d i + p.samplePoint 8) = .L := by
  rw [a.line_sample hbit hi (by decide), charLevel_stop]

theorem Answer.line_after (k : Nat) : a.line p (charStart p a.d 7 + k) = a.after k := by
  rw [Answer.line, replyLevel_after a.after (Nat.le_add_right _ _)]
  exact congrArg a.after (Nat.add_sub_cancel_left _ _)

end

/-! ### The parts of the reception -/

/-- The first `i` bytes of the answer are in the buffer, the next one is number `i`, and no stop bit was high. -/
structure Received (a : Answer) (i : Nat) (s : State) : Prop where
  index : s.rxidx.toNat = i
  clean : s.ferr = false
  bytes : ∀ j, j < i → s.rxbuf.get j = a.bytes.get j

/-- The course of `SETTLE`. -/
structure Settles (s₀ : State) (a : Answer) (k : Nat) (s : State) : Prop where
  follows : Follows s₀ (a.line s₀.cfg) k s
  phase : s.phase = .settle
  count : k = s₀.cfg.presenceDelayCycles + 1 + s.t
  inside : s.t < s₀.cfg.settleCycles

/-- The course of `RX_WAIT` for byte `i`: its start bit has not been seen yet. -/
structure AwaitsByte (s₀ : State) (a : Answer) (i k : Nat) (s : State) : Prop where
  follows : Follows s₀ (a.line s₀.cfg) k s
  phase : s.phase = .rxWait
  count : k = windowStart s₀.cfg a.d i + s.t
  inside : k ≤ charStart s₀.cfg a.d i + 2
  received : Received a i s

/-- The course of `RX_BITS` for byte `i`: the bits sampled so far are the byte's. -/
structure SamplesByte (s₀ : State) (a : Answer) (i k : Nat) (s : State) : Prop where
  follows : Follows s₀ (a.line s₀.cfg) k s
  phase : s.phase = .rxBits
  count : k = charStart s₀.cfg a.d i + 2 + s.t
  inside : s.t ≤ s₀.cfg.samplePoint 8
  received : Received a i s
  bits : ∀ j, j < 8 → s₀.cfg.samplePoint j < s.t → s.shift.getLsbD j = (a.bytes.get i).getLsbD j

/-- The course of `PULLUP`: the answer is in the buffer. -/
structure AwaitsPullup (s₀ : State) (a : Answer) (k : Nat) (s : State) : Prop where
  follows : Follows s₀ (a.line s₀.cfg) k s
  phase : s.phase = .pullup
  count : k = windowStart s₀.cfg a.d 7 + s.t
  clean : s.ferr = false
  bytes : s.rxbuf = a.bytes

section
variable {s₀ s : State} {a : Answer} {i k : Nat}

theorem Settles.next (h : Settles s₀ a k s) (hears : Hears s₀ (a.line s₀.cfg)) :
    Settles s₀ a (k + 1) (cycleStep s) ∨ AwaitsByte s₀ a 0 (k + 1) (cycleStep s) := by
  have hcount := h.count
  have hinside := h.inside
  by_cases ht : s.t = s₀.cfg.settleCycles - 1
  · have hstep := phaseStep_settle_ends h.phase (h.follows.same.cfg ▸ ht)
    have hfollows := h.follows.next hears (.inr (.inl h.phase)) hstep
    rw [cycleStep_of_goOn h.follows.same.busy hstep] at hfollows ⊢
    exact .inr ⟨hfollows, rfl, by simp only [windowStart, wentOn_t]; omega, by rw [charStart_zero, windowStart]; omega,
      rfl, rfl, fun j hj => absurd hj (Nat.not_lt_zero j)⟩
  · have hstep := phaseStep_settle_counts h.phase (h.follows.same.cfg ▸ ht)
    have hfollows := h.follows.next hears (.inr (.inl h.phase)) hstep
    rw [cycleStep_of_goOn h.follows.same.busy hstep] at hfollows ⊢
    exact .inl ⟨hfollows, h.phase, by simp only [wentOn_t, tick_t]; omega, by simp only [wentOn_t, tick_t]; omega⟩

/-- The one sample of `PRESENCE` is low: the servo holds the line. -/
theorem AwaitsPresence.last (h : AwaitsPresence s₀ (a.line s₀.cfg) k s) (hears : Hears s₀ (a.line s₀.cfg))
    (hcfg : s₀.cfg.valid = true) (hk : k = s₀.cfg.presenceDelayCycles) : Settles s₀ a (k + 1) (cycleStep s) := by
  obtain ⟨hfollows, hp, ht⟩ := h
  obtain ⟨-, hpresence, hsettle, -⟩ := params_of_valid hcfg
  have hlow : s.sync2 = .L := by
    rw [hfollows.sync2 (k - 2) (by omega)]
    exact replyLevel_before _ (by simp only [replyStart]; omega)
  have hstep := phaseStep_presence_low hp (by rw [ht, hfollows.same.cfg, hk]) hlow
  have hnext := hfollows.next hears (.inl hp) hstep
  rw [cycleStep_of_goOn hfollows.same.busy hstep] at hnext ⊢
  exact ⟨hnext, rfl, by simp only [wentOn_t]; omega, hsettle⟩

/-- A window stays open until its start bit, as far as the answer meets it. -/
theorem charStart_in_window {p : Params} (hcfg : p.valid = true) (hmeets : a.Meets p) (i : Nat) :
    2 ≤ windowStart p a.d i ∧ windowStart p a.d i ≤ charStart p a.d i + 1 ∧
      charStart p a.d i + 2 < windowStart p a.d i + p.startTimeoutCycles := by
  obtain ⟨hbit, hpresence, hsettle, -⟩ := params_of_valid hcfg
  obtain ⟨hlatency, hwindow⟩ := hmeets
  cases i with
  | zero => rw [charStart_zero, windowStart]; omega
  | succ i =>
    simp only [windowStart, charStart_succ, Params.samplePoint]
    unfold Params.halfCycles at *
    omega

theorem AwaitsByte.next (h : AwaitsByte s₀ a i k s) (hears : Hears s₀ (a.line s₀.cfg)) (hcfg : s₀.cfg.valid = true)
    (hmeets : a.Meets s₀.cfg) (hi : i < 7) :
    AwaitsByte s₀ a i (k + 1) (cycleStep s) ∨ SamplesByte s₀ a i (k + 1) (cycleStep s) := by
  obtain ⟨hbit, -⟩ := params_of_valid hcfg
  obtain ⟨hopen, hearly, hlate⟩ := charStart_in_window hcfg hmeets i
  have hcount := h.count
  have hinside := h.inside
  obtain ⟨hidx, hclean, hbytes⟩ := h.received
  have hlow : ∀ q, windowStart s₀.cfg a.d i ≤ q + 2 → q < charStart s₀.cfg a.d i → a.line s₀.cfg q = .L :=
    fun q => a.line_before_char (by omega)
  by_cases hedge : k = charStart s₀.cfg a.d i + 2
  · have hhigh : s.sync2 = .H := by
      rw [h.follows.sync2 _ hedge, a.line_start hbit hi]
    have hprev : s.sprev = .L := by
      rw [h.follows.sprev (charStart s₀.cfg a.d i - 1) (by omega)]
      exact hlow _ (by omega) (by omega)
    have hstep := phaseStep_rxWait_edge h.phase hprev hhigh
    have hfollows := h.follows.next hears (.inr (.inr (.inl h.phase))) hstep
    rw [cycleStep_of_goOn h.follows.same.busy hstep] at hfollows ⊢
    have hfirst : ∀ j, 1 ≤ s₀.cfg.samplePoint j := fun j => by unfold Params.samplePoint; omega
    exact .inr ⟨hfollows, rfl, by simp only [wentOn_t]; omega, hfirst 8, ⟨hidx, hclean, hbytes⟩,
      fun j _ hlt => absurd hlt (Nat.not_lt.mpr (hfirst j))⟩
  · have hsync : s.sync2 = .L := by
      rw [h.follows.sync2 (k - 2) (by omega)]
      exact hlow _ (by omega) (by omega)
    have hstep := phaseStep_rxWait_counts h.phase hsync (by rw [h.follows.same.cfg]; omega)
    have hfollows := h.follows.next hears (.inr (.inr (.inl h.phase))) hstep
    rw [cycleStep_of_goOn h.follows.same.busy hstep] at hfollows ⊢
    exact .inl ⟨hfollows, h.phase, by simp only [wentOn_t, tick_t]; omega, by omega, hidx, hclean, hbytes⟩

/-- What the receiver sees at sample point `j` of byte `i`. -/
theorem SamplesByte.sample (h : SamplesByte s₀ a i k s) {j : Nat} (ht : s.t = s₀.cfg.samplePoint j) :
    s.sync2 = a.line s₀.cfg (charStart s₀.cfg a.d i + s₀.cfg.samplePoint j) :=
  h.follows.sync2 _ (by rw [h.count, ht]; omega)

/-- Between the samples, and at those of the data bits, the byte goes on. -/
theorem SamplesByte.next_bit (h : SamplesByte s₀ a i k s) (hears : Hears s₀ (a.line s₀.cfg)) (hcfg : s₀.cfg.valid = true)
    (hi : i < 7) (ht : s.t ≠ s₀.cfg.samplePoint 8) : SamplesByte s₀ a i (k + 1) (cycleStep s) := by
  obtain ⟨hbit, -⟩ := params_of_valid hcfg
  have hcount := h.count
  have hinside := h.inside
  have hsame := h.follows.same
  obtain ⟨hidx, hclean, hbytes⟩ := h.received
  have hpos : 0 < s₀.cfg.bitCycles := by omega
  obtain ⟨v, hstep, hv⟩ : ∃ v, phaseStep s = goOn (tick { s with shift := v }) ∧
      ∀ j, j < 8 → s₀.cfg.samplePoint j < s.t + 1 → v.getLsbD j = (a.bytes.get i).getLsbD j := by
    by_cases hat : ∃ j, s.t = s₀.cfg.samplePoint j
    · obtain ⟨j, hj⟩ := hat
      have hlt : j < 8 := (samplePoint_lt_iff hpos).mp (by omega)
      refine ⟨_, phaseStep_rxBits_data h.phase (hsame.cfg ▸ hpos) (hsame.cfg ▸ hj) hlt, fun j' hj' hlt' => ?_⟩
      rw [setBit_getLsbD _ _ hj', hsame.cfg, h.sample hj, a.line_data hbit hi hlt]
      split_ifs with heq
      · rw [heq]
      · refine h.bits j' hj' (lt_of_le_of_ne (Nat.le_of_lt_succ hlt') fun hsample => heq ?_)
        exact samplePoint_injective hpos (hsample.trans hj)
    · refine ⟨s.shift, phaseStep_rxBits_counts h.phase fun j hj => hat ⟨j, hsame.cfg ▸ hj⟩, fun j hj hlt => h.bits j hj ?_⟩
      exact lt_of_le_of_ne (Nat.le_of_lt_succ hlt) fun heq => hat ⟨j, heq.symm⟩
  have hfollows := h.follows.next hears (.inr (.inr (.inr (.inl h.phase)))) hstep
  rw [cycleStep_of_goOn hsame.busy hstep] at hfollows ⊢
  exact ⟨hfollows, h.phase, by simp only [wentOn_t, tick_t]; omega, by simp only [wentOn_t, tick_t]; omega,
    ⟨hidx, hclean, hbytes⟩, hv⟩

/-- At the stop bit the byte is complete: the next window opens, or the pull-up check begins. -/
theorem SamplesByte.next_stop (h : SamplesByte s₀ a i k s) (hears : Hears s₀ (a.line s₀.cfg)) (hcfg : s₀.cfg.valid = true)
    (hmeets : a.Meets s₀.cfg) (hi : i < 7) (ht : s.t = s₀.cfg.samplePoint 8) :
    (i < 6 ∧ AwaitsByte s₀ a (i + 1) (k + 1) (cycleStep s)) ∨ AwaitsPullup s₀ a (k + 1) (cycleStep s) := by
  obtain ⟨hbit, -⟩ := params_of_valid hcfg
  obtain ⟨-, hearly, -⟩ := charStart_in_window hcfg hmeets (i + 1)
  have hsame := h.follows.same
  obtain ⟨hidx, hclean, hbytes⟩ := h.received
  have hk : k + 1 = windowStart s₀.cfg a.d (i + 1) := by
    rw [windowStart, h.count, ht]; omega
  have hstop : (s.ferr || lineHigh s) = false := by
    rw [hclean, lineHigh, h.sample ht, a.line_stop hbit hi]; rfl
  have hshift : s.shift = a.bytes.get i := BitVec.eq_of_getLsbD_eq fun j hj => by
    refine h.bits j hj ?_
    rw [ht, samplePoint_lt_iff (by omega)]
    exact hj
  have hstored : ∀ j, j < i + 1 → (s.rxbuf.set s.rxidx.toNat s.shift).get j = a.bytes.get j := fun j hj => by
    rw [hidx, FrameBuf.get_set _ _ hi, hshift]
    split_ifs with heq
    · rw [heq]
    · exact hbytes j (by omega)
  have hstep := phaseStep_rxBits_stop h.phase (by rw [hsame.cfg]; omega) (by rw [hsame.cfg, ht])
  have hfollows := h.follows.next hears (.inr (.inr (.inr (.inl h.phase)))) hstep
  rw [cycleStep_of_goOn hsame.busy hstep] at hfollows ⊢
  by_cases hlast : i = 6
  · subst hlast
    rw [stopSample_last hidx] at hfollows ⊢
    exact .inr ⟨hfollows, rfl, hk, hstop, FrameBuf.eq_of_get hstored⟩
  · rw [stopSample_more (by omega)] at hfollows ⊢
    exact .inl ⟨by omega, hfollows, rfl, hk, by omega, by simp only [wentOn_rxidx]; bv_omega, hstop, hstored⟩

/-- In the pull-up check the sample is low for as long as the line stays low after the reply. -/
theorem AwaitsPullup.sync_low (h : AwaitsPullup s₀ a k s) (hcfg : s₀.cfg.valid = true) (hmeets : a.Meets s₀.cfg)
    (hlow : ∀ j, k = charStart s₀.cfg a.d 7 + j + 2 → a.after j = .L) : s.sync2 = .L := by
  have hcount := h.count
  obtain ⟨hbegun, -⟩ := charStart_in_window hcfg hmeets 7
  rw [h.follows.sync2 (k - 2) (by omega)]
  by_cases hbefore : k - 2 < charStart s₀.cfg a.d 7
  · exact a.line_before_char (Nat.le_refl 7) (by omega) hbefore
  · rw [show k - 2 = charStart s₀.cfg a.d 7 + (k - 2 - charStart s₀.cfg a.d 7) by omega, a.line_after]
    exact hlow _ (by omega)

/-- While the line is low and the window open, the pull-up check goes on. -/
theorem AwaitsPullup.next (h : AwaitsPullup s₀ a k s) (hears : Hears s₀ (a.line s₀.cfg)) (hsync : s.sync2 = .L)
    (hk : k + 1 < windowStart s₀.cfg a.d 7 + s₀.cfg.pullupWindowCycles) : AwaitsPullup s₀ a (k + 1) (cycleStep s) := by
  have hcount := h.count
  have hstep := phaseStep_pullup_counts h.phase hsync (by rw [h.follows.same.cfg]; omega)
  have hfollows := h.follows.next hears (.inr (.inr (.inr (.inr h.phase)))) hstep
  rw [cycleStep_of_goOn h.follows.same.busy hstep] at hfollows ⊢
  exact ⟨hfollows, h.phase, by simp only [wentOn_t, tick_t]; omega, h.clean, h.bytes⟩

end

/-! ### The whole reception -/

/-- The course of a read's reception, from the presence check to the pull-up check. -/
inductive Reading (s₀ : State) (a : Answer) (k : Nat) (s : State) : Prop
  | presence (h : AwaitsPresence s₀ (a.line s₀.cfg) k s) (hk : k ≤ s₀.cfg.presenceDelayCycles)
  | settle (h : Settles s₀ a k s)
  | wait (i : Nat) (hi : i < 7) (h : AwaitsByte s₀ a i k s)
  | bits (i : Nat) (hi : i < 7) (h : SamplesByte s₀ a i k s)
  | pullup (h : AwaitsPullup s₀ a k s)

section
variable {s₀ s : State} {a : Answer} {k last : Nat}

theorem Reading.follows (h : Reading s₀ a k s) : Follows s₀ (a.line s₀.cfg) k s := by
  cases h with
  | presence h => exact h.1
  | settle h => exact h.follows
  | wait i _ h => exact h.follows
  | bits i _ h => exact h.follows
  | pullup h => exact h.follows

/-- The reception runs up to its last cycle if the line stays low before that cycle's sample and the pull-up window is still open. -/
theorem Reading.next (h : Reading s₀ a k s) (hears : Hears s₀ (a.line s₀.cfg)) (hcfg : s₀.cfg.valid = true)
    (hmeets : a.Meets s₀.cfg) (hlow : ∀ j, charStart s₀.cfg a.d 7 + j + 2 < last → a.after j = .L)
    (hopen : last < windowStart s₀.cfg a.d 7 + s₀.cfg.pullupWindowCycles) (hk : k < last) :
    Reading s₀ a (k + 1) (cycleStep s) := by
  cases h with
  | presence h hk =>
    rcases Nat.lt_or_eq_of_le hk with hlt | heq
    · exact .presence (h.next hears hlt) hlt
    · exact .settle (h.last hears hcfg heq)
  | settle h =>
    rcases h.next hears with h | h
    · exact .settle h
    · exact .wait 0 (by decide) h
  | wait i hi h =>
    rcases h.next hears hcfg hmeets hi with h | h
    · exact .wait i hi h
    · exact .bits i hi h
  | bits i hi h =>
    by_cases ht : s.t = s₀.cfg.samplePoint 8
    · rcases h.next_stop hears hcfg hmeets hi ht with ⟨hmore, h⟩ | h
      · exact .wait (i + 1) (by omega) h
      · exact .pullup h
    · exact .bits i hi (h.next_bit hears hcfg hi ht)
  | pullup h =>
    exact .pullup (h.next hears (h.sync_low hcfg hmeets fun j hj => hlow j (by omega)) (by omega))

/-- Once the pull-up window has opened, the reception is in the pull-up check. -/
theorem Reading.awaitsPullup (h : Reading s₀ a k s) (hk : windowStart s₀.cfg a.d 7 ≤ k) :
    AwaitsPullup s₀ a k s := by
  have hle : ∀ i, i < 7 → charStart s₀.cfg a.d i + 2 + s₀.cfg.samplePoint 8 < windowStart s₀.cfg a.d 7 := fun i hi => by
    have := charStart_le s₀.cfg a.d (show i ≤ 6 by omega)
    simp only [windowStart]
    omega
  have hfirst := hle 0 (by decide)
  rw [charStart_zero, windowStart] at hfirst
  cases h with
  | presence h hpresence => omega
  | settle h => have := h.count; have := h.inside; omega
  | wait i hi h => have := h.inside; have := hle i hi; omega
  | bits i hi h => have := h.count; have := h.inside; have := hle i hi; omega
  | pullup h => exact h

end

end Sys2Proof.Machine
end

section
/-!
The two test servos that answer (20_memory.md R57, R59; 70_reset_and_hazards.md R182): the reply is received and valid, and what the pull-up
check makes of the line after it.
-/

namespace Sys2Proof.Machine

/-- A faithful servo's response is valid for the register it was asked for (41_framer.md R119). -/
theorem validateFrame_responseFrame (m addr : Byte) (v : Half) :
    validateFrame (responseFrame m addr v) addr false = .ok := by
  simp [validateFrame, responseFrame, responseBuf]

@[simp] theorem responseValue_responseFrame (m addr : Byte) (v : Half) : responseValue (responseFrame m addr v) = v :=
  joinBytes_split v

section
variable {s : State} {i : Instr} {addr m : Byte} {a : Answer} {last : Nat}

/-- A read whose answer meets the windows is received as the answer, up to any cycle of the pull-up check before which the line stays
low. -/
theorem read_reading (hinv : Inv s) (hatt : s.attached = true) (hb : s.busy = false) (hread : ReadsRegister i addr)
    (hf : fetch s = some i) (hanswers : s.servo.far.Answers a.d a.after) (htakes : s.servo.far.Takes m)
    (hbytes : a.bytes = responseFrame m addr (servoRead s.servo.regs addr)) (hmeets : a.Meets s.cfg)
    (hlow : ∀ j, charStart s.cfg a.d 7 + j + 2 < last → a.after j = .L)
    (hopen : last < windowStart s.cfg a.d 7 + s.cfg.pullupWindowCycles) {k : Nat} (hk : k ≤ last) :
    Reading (afterRequest s) a k (cycleStep^[k] (afterRequest s)) := by
  have hrel := read_released hinv hatt hb hread hf
  rw [← hrel.cfg] at hmeets hlow hopen
  have hvalid : (afterRequest s).cfg.valid = true := hrel.cfg ▸ hinv.1
  have hears : Hears (afterRequest s) (a.line (afterRequest s).cfg) :=
    hears_reply (hrel.far ▸ hanswers) (hbytes ▸ hrel.reply m htakes)
  refine course_of_next ?_ (fun k t h hlt => h.next hears hvalid hmeets hlow hopen hlt) hk
  exact .presence ⟨.refl _ hrel.busy, hrel.phase, hrel.count⟩ (Nat.zero_le _)

end

/-- How many cycles before the end of the reply the pull-up check begins. -/
theorem charStart_seven_eq (p : Params) (d : Nat) :
    charStart p d 7 + p.halfCycles + 3 = windowStart p d 7 + p.bitCycles := by
  simp only [windowStart, charStart_succ p d 6, Params.samplePoint]
  omega

/-- Settles O50: the pull-up check begins within the last stop bit, and its first high sample comes `r` cycles and the synchroniser's two
after the reply. -/
theorem faithfulReadReturnsTheRegister : Obligations.FaithfulReadReturnsTheRegister := by
  intro s i addr d r m hread hinv hatt hb hf hfar hlatency hwindow hpullup n hquiet
  obtain ⟨a, rfl, hafter, hbytes⟩ : ∃ a : Answer, a.d = d ∧ (a.after = fun k => if k < r then .L else .H) ∧
      a.bytes = responseFrame m addr (servoRead s.servo.regs addr) := ⟨⟨_, _, _⟩, rfl, rfl, rfl⟩
  obtain ⟨last, hlast⟩ : ∃ last, last = charStart s.cfg a.d 7 + r + 2 := ⟨_, rfl⟩
  have hmeets : a.Meets s.cfg := ⟨hlatency, hwindow⟩
  have hrel := read_released hinv hatt hb hread hf
  have hcheck := charStart_seven_eq s.cfg a.d
  obtain ⟨-, hbegun, -⟩ := charStart_in_window hinv.1 hmeets 7
  have hlow : ∀ j, charStart s.cfg a.d 7 + j + 2 < last → a.after j = .L := fun j hj => by
    rw [hafter]
    exact if_pos (by omega)
  have hcourse := fun k => read_reading (k := k) hinv hatt hb hread hf (.inl ⟨r, m, hfar, hafter⟩) (.inl ⟨_, r, hfar⟩) hbytes
    hmeets hlow (by omega)
  have hend := (hcourse last (Nat.le_refl _)).awaitsPullup (by rw [hrel.cfg]; omega)
  have hhigh : (cycleStep^[last] (afterRequest s)).sync2 = .H := by
    rw [hend.follows.sync2 _ hlast, hrel.cfg, a.line_after, hafter]
    exact if_neg (Nat.lt_irrefl r)
  have hdone := phaseStep_pullup_high hend.phase hhigh
  rw [validate, hend.bytes, hend.clean, hend.follows.same.addr, hrel.addr, hbytes, validateFrame_responseFrame] at hdone
  have hlen : 51 * s.cfg.bitCycles + last + 1 = n := by
    simp only [hlast, charStart_seven, replyStart, n]
    omega
  rw [← hlen] at hquiet ⊢
  have hresult := read_ends hinv hatt hb hread hf (fun k hk => (hcourse k hk).follows) hdone hquiet
  rwa [if_pos rfl, hend.bytes, hbytes, responseValue_responseFrame] at hresult

/-- Settles O51: without a pull-up the line stays low after the reply, and the pull-up check ends with its window. -/
theorem missingPullupIsDetected : Obligations.MissingPullupIsDetected := by
  intro s i d m hi hinv hatt hb hf hfar hlatency hwindow n hquiet
  obtain ⟨addr, hread⟩ := hi.readsRegister
  obtain ⟨a, rfl, hafter, hbytes⟩ : ∃ a : Answer, a.d = d ∧ (a.after = fun _ => .L) ∧
      a.bytes = responseFrame m addr (servoRead s.servo.regs addr) := ⟨⟨_, _, _⟩, rfl, rfl, rfl⟩
  obtain ⟨last, hlast⟩ : ∃ last, last = windowStart s.cfg a.d 7 + s.cfg.pullupWindowCycles - 1 := ⟨_, rfl⟩
  have hmeets : a.Meets s.cfg := ⟨hlatency, hwindow⟩
  have hrel := read_released hinv hatt hb hread hf
  obtain ⟨-, -, -, -, hpullup⟩ := params_of_valid hinv.1
  have hlow : ∀ j, a.after j = .L := fun j => by rw [hafter]
  have hcourse := fun k => read_reading (k := k) hinv hatt hb hread hf (.inr ⟨m, hfar, hafter⟩) (.inr ⟨_, hfar⟩) hbytes
    hmeets (fun j _ => hlow j) (show last < _ by omega)
  have hend := (hcourse last (Nat.le_refl _)).awaitsPullup (by rw [hrel.cfg]; omega)
  have hsync := hend.sync_low (hrel.cfg ▸ hinv.1) (hrel.cfg ▸ hmeets) fun j _ => hlow j
  have hcount := hend.count
  rw [hrel.cfg] at hcount
  have hdone := phaseStep_pullup_ends hend.phase hsync (by rw [hend.follows.same.cfg, hrel.cfg]; omega)
  have hlen : 51 * s.cfg.bitCycles + last + 1 = n := by
    have hseven := charStart_seven s.cfg a.d
    have hcheck := charStart_seven_eq s.cfg a.d
    simp only [replyStart] at hseven
    simp only [n]
    omega
  rw [← hlen] at hquiet ⊢
  exact read_ends hinv hatt hb hread hf (fun k hk => (hcourse k hk).follows) hdone hquiet

end Sys2Proof.Machine
end

section
/-!
The round trip (20_memory.md R60): what a write leaves in a servo's register stays there through any accesses, commands and resets, as long as
no other write to that register is accepted.
-/

namespace Sys2Proof.Machine

/-- In `TX` a servo reads from the buffer the request of the latched command (41_framer.md R112, R113). -/
theorem decodeRequest_txFrame {s : State} (h : PhaseInv s) (hp : s.phase = .tx) :
    (s.op = .writeReg ∧ ∃ lo hi c, decodeRequest (txFrame s) = .ok (.wireWriteRequest s.addr lo hi c)) ∨
      (s.op = .readReg ∧ ∃ c, decodeRequest (txFrame s) = .ok (.wireReadRequest s.addr c)) := by
  simp only [PhaseInv, hp] at h
  obtain ⟨-, -, -, ⟨hop, hlen, hbuf⟩ | ⟨hop, hlen, hbuf⟩⟩ := h
  · exact .inl ⟨hop, _, _, _, by rw [txFrame, hlen, hbuf]; exact decodeRequest_writeFrame s.addr s.value⟩
  · exact .inr ⟨hop, _, by rw [txFrame, hlen, hbuf]; exact decodeRequest_readFrame s.addr s.txbuf⟩

/-- A cycle changes no servo register but the one a write in `TX` is addressed to. -/
theorem servoRead_servoNext {s : State} {a : Byte} (h : PhaseInv s)
    (hother : s.phase = .tx → s.op = .writeReg → s.addr ≠ a) :
    servoRead (servoNext s).regs a = servoRead s.servo.regs a := by
  by_cases hend : s.phase = .tx ∧ txEnds s = true
  · have htake : ∀ m, servoRead (servoTake m (txFrame s) (servoAdvance s.servo)).regs a = servoRead s.servo.regs a := by
      intro m
      rcases decodeRequest_txFrame h hend.1 with ⟨hop, lo, hi, c, hreq⟩ | ⟨-, c, hreq⟩
      · rw [servoTake_write hreq, servoAdvance_regs]
        exact servoRead_servoWrite_other _ _ (hother hend.1 hop).symm
      · rw [servoTake_read hreq, servoAdvance_regs]
    rw [servoNext, if_pos hend]
    cases s.servo.far with
    | input => rfl
    | absent => rfl
    | faithful d r m => exact htake m
    | noPullup d m => exact htake m
  · rw [servoNext_of_not_txEnd hend, servoAdvance_regs]

/-- No phase step enters `TX`, and none changes the latched command. -/
theorem phaseStep_latched (s : State) :
    ((phaseStep s).next.phase = .tx → s.phase = .tx) ∧ (phaseStep s).next.op = s.op ∧ (phaseStep s).next.addr = s.addr := by
  refine ⟨fun h => ?_, ?_⟩
  · unfold phaseStep at h
    cases hp : s.phase <;> simp only [hp] at h
    case tx => rfl
    case idle => exact absurd (hp.symm.trans h) (by decide)
    case exec => obtain ⟨code, attached, e⟩ := execStep_cases s; rw [e] at h; cases h
    case presence => unfold presenceStep at h; split_ifs at h <;> simp [hp] at h
    case settle => unfold settleStep at h; split_ifs at h <;> simp [hp] at h
    case rxWait => unfold rxWaitStep at h; split_ifs at h <;> simp [hp] at h
    case rxBits => unfold rxBitsStep stopSample at h; split_ifs at h <;> simp [hp] at h
    case pullup => unfold pullupStep at h; split_ifs at h <;> simp [hp] at h
  · rcases phaseStep_cases s with ⟨code, attached, e⟩ | ⟨_, _, _, _, _, _, e⟩ <;> rw [e] <;> exact ⟨rfl, rfl⟩

theorem decodeWord_of_writeReg {w : Word} (h : wordKind w = .writeReg) :
    decodeWord w = .writeReg (addrField w) (valueField w) := by
  unfold wordKind at h
  unfold decodeWord
  split_ifs at h ⊢
  rfl

/-- The servo's register `a` holds `v`, and no write to `a` is on its way. -/
structure HoldsValue (a : Byte) (v : Half) (s : State) : Prop where
  inv : Inv s
  value : servoRead s.servo.regs a = v
  other : s.phase = .tx → s.op = .writeReg → s.addr ≠ a

/-- A write to `a` is on its way after a cycle only if it was before, or is accepted in it. -/
theorem cycleStep_other {s : State} {a : Byte} (hother : s.phase = .tx → s.op = .writeReg → s.addr ≠ a)
    (hno : s.busy = false → ∀ v, fetch s ≠ some (.writeReg a v)) :
    (cycleStep s).phase = .tx → (cycleStep s).op = .writeReg → (cycleStep s).addr ≠ a := by
  obtain ⟨hphase, hop, haddr⟩ := phaseStep_latched s
  simp only [cycleStep, endOfCycle_phase, endOfCycle_op, endOfCycle_addr]
  have hsame : (phaseStep s).next.phase = .tx → (phaseStep s).next.op = .writeReg → (phaseStep s).next.addr ≠ a :=
    fun hp ho => haddr ▸ hother (hphase hp) (hop ▸ ho)
  rcases busWrite_cases s (phaseStep s) with ⟨-, -, e⟩ | ⟨hw, hb, e⟩ | ⟨-, -, e⟩ | ⟨-, -, e⟩ <;> rw [e]
  · exact hsame
  · obtain ⟨-, -, -, hkind, hfield, -⟩ := acceptWord_keeps (currentInput s).busWdata (phaseStep s).next
    rw [hkind, hfield]
    intro _ hwrite heq
    refine hno hb (valueField (currentInput s).busWdata) ?_
    rw [fetch, if_neg (by simp [hb]), if_pos hw, decodeWord_of_writeReg hwrite, heq]
  · exact hsame
  · exact hsame

theorem HoldsValue.step {a : Byte} {v : Half} {s t : State} (h : HoldsValue a v s)
    (hno : (currentInput s).rst = false → s.busy = false → ∀ v, fetch s ≠ some (.writeReg a v)) (hstep : step s = .next t) :
    HoldsValue a v t := by
  obtain ⟨-, -, -, -, hphase⟩ := h.inv
  refine ⟨stepKeepsInvariant s t h.inv hstep, ?_, ?_⟩ <;> rcases step_next hstep with ⟨-, -, rfl⟩ | ⟨hrst, -, rfl⟩
  · rw [resetCycle_servo, servoAdvance_regs]
    exact h.value
  · exact (servoRead_servoNext hphase h.other).trans h.value
  · exact fun hp => by cases hp
  · exact cycleStep_other h.other (hno hrst)

/-- No step changes the parameters or which far end it is. -/
theorem step_cfg_far {s t : State} (h : step s = .next t) : t.cfg = s.cfg ∧ t.servo.far = s.servo.far := by
  rcases step_next h with ⟨-, -, rfl⟩ | ⟨-, -, rfl⟩
  · exact ⟨rfl, rfl⟩
  · exact ⟨cycleStep_cfg s, servoNext_far s⟩

/-- A run of `n + 1` steps starts with one. -/
theorem runCycles_succ_next {n : Nat} {s u : State} (h : runCycles (n + 1) s = .next u) :
    ∃ t, step s = .next t ∧ runCycles n t = .next u := by
  cases hstep : step s with
  | next t => exact ⟨t, rfl, (runCycles_succ hstep n).symm.trans h⟩
  | fault r => simp [runCycles, Host.Core.run, Sys2Proof.core, hstep] at h
  | refused r => simp [runCycles, Host.Core.run, Sys2Proof.core, hstep] at h

theorem NoWriteTo.tail {a : Byte} {n : Nat} {s t : State} (h : NoWriteTo a (n + 1) s) (hstep : step s = .next t) :
    NoWriteTo a n t :=
  fun k u v hk hrun => h (k + 1) u v (by omega) ((runCycles_succ hstep k).trans hrun)

/-- A servo's register keeps its value through any run in which no write to it is accepted. -/
theorem HoldsValue.run {a : Byte} {v : Half} {n : Nat} {s u : State} (h : HoldsValue a v s) (hno : NoWriteTo a n s)
    (hrun : runCycles n s = .next u) : HoldsValue a v u ∧ u.cfg = s.cfg ∧ u.servo.far = s.servo.far := by
  induction n generalizing s with
  | zero => cases hrun; exact ⟨h, rfl, rfl⟩
  | succ n ih =>
    obtain ⟨t, hstep, hrest⟩ := runCycles_succ_next hrun
    have hnext := h.step (fun hrst hb v => hno 0 s v (Nat.succ_pos n) rfl hrst hb) hstep
    obtain ⟨hu, hcfg, hfar⟩ := ih hnext (hno.tail hstep) hrest
    obtain ⟨hcfg', hfar'⟩ := step_cfg_far hstep
    exact ⟨hu, hcfg.trans hcfg', hfar.trans hfar'⟩

/-- Settles O52: the write (`write_completes`), the gap (`HoldsValue.run`) and the read (`faithfulReadReturnsTheRegister`). -/
theorem roundTripLaw : Obligations.RoundTripLaw := by
  intro s a v d r m hinv hatt hb hf hquiet hfar hlatency hwindow hpullup n
  obtain ⟨hbusy, herr, hregs⟩ := write_completes hinv hatt hb hf (.inl ⟨d, r, hfar⟩)
  refine ⟨_, runCycles_of_quiet hinv hquiet, hbusy, herr, fun inputs gap u i hno hrun hub huatt hread huf huquiet => ?_⟩
  have hcfg := iterate_cycleStep_cfg (71 * s.cfg.bitCycles + 1) s
  have hfar' := iterate_cycleStep_far (71 * s.cfg.bitCycles + 1) s
  have hinv' := iterate_cycleStep_inv (71 * s.cfg.bitCycles + 1) hinv
  generalize cycleStep^[71 * s.cfg.bitCycles + 1] s = t at *
  obtain ⟨-, -, -, hwf, -⟩ := hinv
  have hidle : t.phase = .idle := by
    obtain ⟨-, -, -, -, hphase⟩ := hinv'
    exact (idle_of_not_busy hphase hbusy).1
  have hholds : HoldsValue a v { t with inputs := inputs } := by
    refine ⟨hinv', ?_, fun hp => absurd (hidle.symm.trans hp) (by decide)⟩
    exact (congrArg (servoRead · a) hregs).trans (servoRead_servoWrite_same a v hwf)
  obtain ⟨hu, hucfg, hufar⟩ := hholds.run hno hrun
  have hucfg : u.cfg = s.cfg := hucfg.trans hcfg
  rw [← hucfg] at hlatency hwindow hpullup
  obtain ⟨-, x, hx, hxbusy, -, hxerr, hxrdata, -⟩ := faithfulReadReturnsTheRegister u i a d r m hread hu.inv huatt hub
    huf (hufar.trans (hfar'.trans hfar)) hlatency hwindow hpullup (by rw [hucfg]; exact huquiet)
  rw [hucfg] at hx
  exact ⟨x, hx, hxbusy, hxerr, hxrdata.trans hu.value⟩

end Sys2Proof.Machine
end

section
/-!
The two encodings (30_encoding.md R70 to R84): encoding and decoding undo each other on well-formed instructions, for command words
through the fields of the word, for frames through the one list of bytes each decoder takes.
-/

namespace Sys2Proof.Machine

/-! ### Command words -/

/-- The table of 30_encoding.md R75 on a word built from its fields, which has `RSV = 0`. -/
theorem decodeWord_commandWord (op : BitVec 4) (addr : Byte) (value : Half) :
    decodeWord (commandWord op addr value) =
      if op == 0x1#4 then .attach addr value
      else if op == 0x2#4 then .detach addr value
      else if op == 0x3#4 then .writeReg addr value
      else if op == 0x4#4 then if addr == 0#8 && value == 0#16 then .readModel else .readReg addr value
      else .illegal (commandWord op addr value) := by
  obtain ⟨hop, haddr, hvalue, hrsv⟩ := commandWord_fields op addr value
  simp only [decodeWord, hop, haddr, hvalue, hrsv, bne_self_eq_false, Bool.false_eq_true, if_false]

/-- A word is legal where `RSV` is 0 and `OP` is one of the four opcodes (30_encoding.md R72). -/
theorem illegalWord_eq_false_iff (w : Word) :
    illegalWord w = false ↔
      rsvField w = 0#4 ∧ (opField w = 0x1#4 ∨ opField w = 0x2#4 ∨ opField w = 0x3#4 ∨ opField w = 0x4#4) := by
  simp only [illegalWord, Bool.or_eq_false_iff, Bool.and_eq_false_iff, bne_eq_false_iff_eq, or_assoc]

theorem decodeWord_of_illegalWord {w : Word} (h : illegalWord w = true) : decodeWord w = .illegal w := by
  by_cases hrsv : rsvField w = 0#4
  · simp only [illegalWord, hrsv, bne_self_eq_false, Bool.false_or, Bool.and_eq_true, bne_iff_ne, and_assoc] at h
    obtain ⟨h1, h2, h3, h4⟩ := h
    simp [decodeWord, hrsv, h1, h2, h3, h4]
  · simp [decodeWord, hrsv]

/-- A `READ_REG` is well formed where its word does not have the name `READ_MODEL` (log entry 9). -/
theorem readReg_wellFormed_iff {addr : Byte} {value : Half} :
    (Instr.readReg addr value).wellFormed = true ↔ (addr == 0#8 && value == 0#16) = false := by
  simp [Instr.wellFormed, Decidable.or_iff_not_imp_left]

/-- Every legal word is built from its two operand fields and one of the four opcodes. -/
theorem legalWord_cases {w : Word} (h : illegalWord w = false) :
    ∃ addr value, w = commandWord 0x1#4 addr value ∨ w = commandWord 0x2#4 addr value ∨
      w = commandWord 0x3#4 addr value ∨ w = commandWord 0x4#4 addr value := by
  obtain ⟨hrsv, hop⟩ := (illegalWord_eq_false_iff w).mp h
  have hw := commandWord_of_fields w hrsv
  refine ⟨addrField w, valueField w, ?_⟩
  rcases hop with hop | hop | hop | hop <;> rw [hop] at hw
  · exact .inl hw.symm
  · exact .inr (.inl hw.symm)
  · exact .inr (.inr (.inl hw.symm))
  · exact .inr (.inr (.inr hw.symm))

/-- Every word has one meaning, and that meaning's own word is the word. -/
theorem encode_decodeWord (w : Word) : encode (decodeWord w) = .word w ∧ (decodeWord w).wellFormed = true := by
  cases h : illegalWord w with
  | true => rw [decodeWord_of_illegalWord h]; exact ⟨rfl, h⟩
  | false =>
    obtain ⟨addr, value, rfl | rfl | rfl | rfl⟩ := legalWord_cases h <;> rw [decodeWord_commandWord]
    · exact ⟨rfl, rfl⟩
    · exact ⟨rfl, rfl⟩
    · exact ⟨rfl, rfl⟩
    · by_cases hmodel : addr = 0#8 ∧ value = 0#16
      · obtain ⟨rfl, rfl⟩ := hmodel
        exact ⟨rfl, rfl⟩
      · have hname : (addr == 0#8 && value == 0#16) = false := by simpa using hmodel
        simp only [hname]
        exact ⟨rfl, readReg_wellFormed_iff.mpr hname⟩

/-! ### Wire frames -/

/-- A frame with a request's leader goes to the servo's decoder. -/
theorem decodeFrame_request (bs : List Byte) :
    decodeFrame (requestLeader :: bs) = decodeRequest (requestLeader :: bs) := rfl

/-- A frame with a response's leader goes to the block's decoder. -/
theorem decodeFrame_response (bs : List Byte) :
    decodeFrame (responseLeader :: bs) = decodeResponse (responseLeader :: bs) := rfl

theorem decodeRequest_writeRequest (addr lo hi : Byte) :
    decodeRequest [requestLeader, 0x00#8, addr, 0x02#8, lo, hi, writeRequestCks addr lo hi] =
      .ok (.wireWriteRequest addr lo hi (writeRequestCks addr lo hi)) := by
  simp [decodeRequest]

theorem decodeResponse_response (m a lo hi : Byte) :
    decodeResponse [responseLeader, m, a, 0x02#8, lo, hi, responseCks m a 0x02#8 lo hi] =
      .ok (.wireReadResponse m a lo hi (responseCks m a 0x02#8 lo hi)) := by
  simp [decodeResponse]

/-- A frame that decodes has the bytes of its instruction's row and the checksum they ask for. -/
theorem encode_of_decodeFrame {bs : List Byte} {i : Instr} (h : decodeFrame bs = .ok i) :
    encode i = .frame bs ∧ i.wellFormed = true := by
  unfold decodeFrame at h
  split_ifs at h
  · obtain ⟨m, a, lo, hi, c, rfl, rfl, hc⟩ := decodeResponse_ok h
    exact ⟨rfl, beq_iff_eq.mpr hc⟩
  · rcases decodeRequest_ok h with ⟨a, c, rfl, rfl, hc⟩ | ⟨a, lo, hi, c, rfl, rfl, hc⟩
    · exact ⟨rfl, beq_iff_eq.mpr hc⟩
    · exact ⟨rfl, beq_iff_eq.mpr hc⟩

/-! ### The round trips -/

/-- Settles O1: by the row of the instruction; a command's word is decoded by its fields, a frame by its leader and checksum. -/
theorem decodeEncodeRoundTrip : Obligations.DecodeEncodeRoundTrip := by
  intro i hwf
  cases i with
  | attach addr value => exact congrArg Except.ok (decodeWord_commandWord 0x1#4 addr value)
  | detach addr value => exact congrArg Except.ok (decodeWord_commandWord 0x2#4 addr value)
  | writeReg addr value => exact congrArg Except.ok (decodeWord_commandWord 0x3#4 addr value)
  | readReg addr value =>
    have hname := readReg_wellFormed_iff.mp hwf
    have hdecode := decodeWord_commandWord 0x4#4 addr value
    rw [hname] at hdecode
    exact congrArg Except.ok hdecode
  | readModel => rfl
  | illegal word => exact congrArg Except.ok (decodeWord_of_illegalWord hwf)
  | wireWriteRequest addr lo hi c =>
    obtain rfl : c = writeRequestCks addr lo hi := beq_iff_eq.mp hwf
    exact (decodeFrame_request _).trans (decodeRequest_writeRequest addr lo hi)
  | wireReadRequest addr c =>
    obtain rfl : c = readRequestCks addr := beq_iff_eq.mp hwf
    exact (decodeFrame_request _).trans (decodeRequest_readFrame addr FrameBuf.zero)
  | wireReadResponse m a lo hi c =>
    obtain rfl : c = responseCks m a 0x02#8 lo hi := beq_iff_eq.mp hwf
    exact (decodeFrame_response _).trans (decodeResponse_response m a lo hi)

/-- Settles O2: `encode_decodeWord` for command words, `encode_of_decodeFrame` for frames. -/
theorem encodeDecodeRoundTrip : Obligations.EncodeDecodeRoundTrip := by
  intro c i h
  cases c with
  | word w =>
    obtain rfl : decodeWord w = i := Except.ok.inj h
    exact encode_decodeWord w
  | frame bytes => exact encode_of_decodeFrame h

/-! ### The fields as arithmetic, and fixed words -/

theorem opField_toNat (w : Word) : (opField w).toNat = w.toNat % 16 := by
  simp [opField, BitVec.extractLsb'_toNat]

theorem rsvField_toNat (w : Word) : (rsvField w).toNat = w.toNat / 16 % 16 := by
  simp [rsvField, BitVec.extractLsb'_toNat, Nat.shiftRight_eq_div_pow]

theorem addrField_toNat (w : Word) : (addrField w).toNat = w.toNat / 256 % 256 := by
  simp [addrField, BitVec.extractLsb'_toNat, Nat.shiftRight_eq_div_pow]

/-- `VALUE` is the upper half of the word, so nothing stands above it. -/
theorem valueField_toNat (w : Word) : (valueField w).toNat = w.toNat / 65536 := by
  have := w.isLt
  simp only [valueField, BitVec.extractLsb'_toNat, Nat.shiftRight_eq_div_pow]
  omega

/-- Settles O3: each test of `wordKind` on a field is the same test on the field's value. -/
theorem commandKindFollowsTheTable : Obligations.CommandKindFollowsTheTable := by
  intro w
  refine ⟨?_, addrField_toNat w, valueField_toNat w⟩
  simp only [wordKind, bne_iff_ne, beq_iff_eq, ne_eq, BitVec.toNat_eq, rsvField_toNat, opField_toNat, BitVec.toNat_ofNat,
    Nat.reducePow, Nat.reduceMod]

/-- Settles O4: each word and frame is closed, and the decoder computes its instruction. -/
theorem sampleWordsDecode : Obligations.SampleWordsDecode :=
  ⟨rfl, rfl, rfl, rfl, rfl, rfl, rfl, rfl, rfl⟩

/-- Settles O13: `READ_MODEL` has no meaning of its own; `execReadModel` is `execReadReg` at register 0. -/
theorem readModelIsReadRegZero : Obligations.ReadModelIsReadRegZero :=
  ⟨rfl, rfl, rfl, fun _ => rfl⟩

/-- Settles O37: the other two summands are 0, and the address is below 256. -/
theorem readRequestChecksumIsTheAddress : Obligations.ReadRequestChecksumIsTheAddress := by
  intro addr
  apply BitVec.eq_of_toNat_eq
  have := addr.isLt
  simp only [readRequestCks, cks, List.map_cons, List.map_nil, List.sum_cons, List.sum_nil, BitVec.toNat_ofNat]
  omega

end Sys2Proof.Machine
end

section
/-!
The waveform the block sends (30_encoding.md R76; 40_transceiver.md R91, R93): which slot of which character each count of `TX` falls into.
-/

namespace Sys2Proof.Machine

/-- Before the first character the line is L for one bit period. -/
theorem txLevel_leadIn {p : Params} (f : FrameBuf) {x : Nat} (hx : x < p.bitCycles) : txLevel p f x = .L := by
  rw [txLevel, if_pos (Nat.div_eq_of_lt hx)]

/-- `x` cycles into slot `j` of character `k`, the line has that slot's level. -/
theorem txLevel_slot {p : Params} (f : FrameBuf) {k j x : Nat} (hj : j < 10) (hx : x < p.bitCycles) :
    txLevel p f (p.bitCycles * (1 + 10 * k + j) + x) = charLevel p (f.get k) j := by
  have hslot : (p.bitCycles * (1 + 10 * k + j) + x) / p.bitCycles = 1 + 10 * k + j := by
    rw [Nat.mul_add_div (by omega), Nat.div_eq_of_lt hx, Nat.add_zero]
  rw [txLevel, hslot, if_neg (by omega), show (1 + 10 * k + j - 1) / 10 = k by omega,
    show (1 + 10 * k + j - 1) % 10 = j by omega]

/-- Settles O41: `txLevel_slot` at the start bit, the data bits and the stop bit. -/
theorem frameWaveform : Obligations.FrameWaveform := by
  intro p f x hx
  refine ⟨txLevel_leadIn f hx, fun k => ⟨?_, fun j hj => ?_, ?_⟩⟩
  · exact (txLevel_slot f (j := 0) (by omega) hx).trans (charLevel_start p _)
  · rw [Nat.add_assoc (1 + 10 * k), Nat.add_comm 1 j, txLevel_slot f (by omega) hx, charLevel_data p _ hj, dataLevel_eq]
  · rw [txLevel_slot f (by omega) hx, charLevel_stop]

end Sys2Proof.Machine
end

section
/-!
One cycle of each wire frame (30_encoding.md R77 to R79; log entry 10): the phase step of the state with the frame in its buffer, and the
servo's registers after it.
-/

namespace Sys2Proof.Machine

/-! ### The servo's cells after a request -/

/-- A register's write reaches its own two byte cells only (log entry 12). -/
theorem read_servoWrite_other (m : Memory) (a : Byte) (v : Half) {k : Nat} (hlo : k ≠ 2 * a.toNat)
    (hhi : k ≠ 2 * a.toNat + 1) : (servoWrite m a v).read k = m.read k := by
  rw [servoWrite, Memory.read_write_other _ _ _ hhi, Memory.read_write_other _ _ _ hlo]

/-- The far end goes on with its reply, or it is a test servo that takes the frame just sent. -/
theorem servoNext_cases (s : State) :
    servoNext s = servoAdvance s.servo ∨ ∃ m, servoNext s = servoTake m (txFrame s) (servoAdvance s.servo) := by
  unfold servoNext
  split_ifs with hend
  · cases s.servo.far with
    | input => exact .inl rfl
    | absent => exact .inl rfl
    | faithful d r m => exact .inr ⟨m, rfl⟩
    | noPullup d m => exact .inr ⟨m, rfl⟩
  · exact .inl rfl

/-- While a write request stands in the buffer, no cell outside its register changes. -/
theorem servoNext_read_of_writeRequest {s : State} {a lo hi c : Byte}
    (hreq : decodeRequest (txFrame s) = .ok (.wireWriteRequest a lo hi c)) {k : Nat} (hlo : k ≠ 2 * a.toNat)
    (hhi : k ≠ 2 * a.toNat + 1) : (servoNext s).regs.read k = s.servo.regs.read k := by
  rcases servoNext_cases s with h | ⟨m, h⟩ <;> rw [h]
  · rfl
  · rw [servoTake_write hreq]
    exact read_servoWrite_other _ a _ hlo hhi

/-- While a read request stands in the buffer, no register changes. -/
theorem servoNext_regs_of_readRequest {s : State} {a c : Byte}
    (hreq : decodeRequest (txFrame s) = .ok (.wireReadRequest a c)) : (servoNext s).regs = s.servo.regs := by
  rcases servoNext_cases s with h | ⟨m, h⟩ <;> rw [h]
  · rfl
  · rw [servoTake_read hreq, servoAdvance_regs]

/-- Away from the end of a frame no register changes. -/
theorem servoNext_regs_of_not_txEnd {s : State} (h : ¬(s.phase = .tx ∧ txEnds s = true)) :
    (servoNext s).regs = s.servo.regs := by
  rw [servoNext_of_not_txEnd h, servoAdvance_regs]

/-! ### The requests -/

/-- Settles O19: the two cases of the phase step in `TX`, and at the frame's end what a servo does with the request. -/
theorem wireWriteRequestRuns : Obligations.WireWriteRequestRuns := by
  intro s addr lo hi hb hp hop hwf
  rw [← writeRequestCks_eq]
  intro c sent
  have hb' : sent.busy = true := hb
  have hp' : sent.phase = .tx := hp
  have hexec : exec (.wireWriteRequest addr lo hi c) s = .next (cycleStep sent) := rfl
  have hreq : decodeRequest (txFrame sent) = .ok (.wireWriteRequest addr lo hi c) :=
    decodeRequest_writeRequest addr lo hi
  refine ⟨fun ht => ⟨_, hexec, fun k => ?_, cycleStep_of_goOn hb' (phaseStep_tx_counts hp' ht)⟩,
    fun ht => ⟨_, hexec, ?_, fun d r m hfar => ?_, fun k hlo hhi => servoNext_read_of_writeRequest hreq hlo hhi⟩⟩
  · have hnot : ¬(sent.phase = .tx ∧ txEnds sent = true) := fun hend => ht ((txEnds_iff sent).mp hend.2)
    exact congrArg (Memory.read · k) (servoNext_regs_of_not_txEnd hnot)
  · rw [cycleStep_of_complete hb' (phaseStep_tx_write_ends hp' ht hop), if_neg (by simp [sent, hop])]
  · have htake := servoNext_of_txEnd hp' ht (.inl ⟨d, r, hfar⟩)
    rw [servoTake_write hreq, servoAdvance_regs] at htake
    rw [show (cycleStep sent).servo = servoNext sent from rfl, htake]
    exact servoRead_servoWrite_same addr _ hwf

/-- Settles O21: the two cases of the phase step in `TX`; `PRESENCE` releases the line, and a faithful servo takes the request. -/
theorem wireReadRequestRuns : Obligations.WireReadRequestRuns := by
  intro s addr hb hp hop sent
  have hb' : sent.busy = true := hb
  have hp' : sent.phase = .tx := hp
  have hexec : exec (.wireReadRequest addr addr) s = .next (cycleStep sent) := rfl
  have hreq : decodeRequest (txFrame sent) = .ok (.wireReadRequest addr addr) := by
    have hframe := decodeRequest_readFrame addr s.txbuf
    rwa [readFrame, readRequestChecksumIsTheAddress] at hframe
  have hkeep : KeepsServoRegs s (cycleStep sent) := fun k =>
    congrArg (Memory.read · k) (servoNext_regs_of_readRequest hreq)
  refine ⟨fun ht => ⟨_, hexec, hkeep, cycleStep_of_goOn hb' (phaseStep_tx_counts hp' ht)⟩, fun ht => ?_⟩
  have hstep := cycleStep_of_goOn hb' (phaseStep_tx_read_ends hp' ht hop)
  refine ⟨_, hexec, hkeep, ?_, hstep, fun d r m hfar => ?_⟩
  · rw [hstep, lineDrive_of_receiving (.inl rfl)]
  · have htake := servoNext_of_txEnd hp' ht (.inl ⟨d, r, hfar⟩)
    rw [show (cycleStep sent).servo = servoNext sent from rfl, htake, servoTake_read hreq, servoAdvance_regs]

/-! ### The response -/

/-- A response with its own checksum is good where it echoes the requested address and no stop bit read high (41_framer.md R119). -/
theorem validateFrame_responseBuf (m a lo hi addr : Byte) (ferr : Bool) :
    validateFrame (responseBuf m a lo hi (responseCks m a 0x02#8 lo hi)) addr ferr =
      if a = addr ∧ ferr = false then .ok else .corruptResponse := by
  simp [validateFrame, responseBuf]

/-- Settles O27: the three cases of the phase step in `PULLUP`, the high line by `validateFrame_responseBuf`. -/
theorem wireReadResponseRuns : Obligations.WireReadResponseRuns := by
  intro s m a lo hi hb hp hop
  rw [← responseCks_eq]
  intro c got
  have hb' : got.busy = true := hb
  have hp' : got.phase = .pullup := hp
  have hvalid : validate got = if a = s.addr ∧ s.ferr = false then .ok else .corruptResponse :=
    validateFrame_responseBuf m a lo hi s.addr s.ferr
  have hkeep : KeepsServoRegs s (cycleStep got) := fun k =>
    congrArg (Memory.read · k) (servoNext_regs_of_not_txEnd (s := got) (by simp [got, hp]))
  have hlow : ¬s.sync2 = .H → got.sync2 = .L := fun h => by cases hs : s.sync2 <;> simp_all [got]
  refine ⟨cycleStep got, rfl, hkeep, ?_⟩
  split_ifs with hs hgood ht
  · rw [if_pos hgood] at hvalid
    rw [cycleStep_of_complete hb' (phaseStep_pullup_high hp' hs), hvalid, if_pos ⟨hop, rfl⟩]
    rfl
  · rw [if_neg hgood] at hvalid
    rw [cycleStep_of_complete hb' (phaseStep_pullup_high hp' hs), hvalid, if_neg (by simp)]
  · rw [cycleStep_of_complete hb' (phaseStep_pullup_ends hp' (hlow hs) ht), if_neg (by simp)]
  · exact cycleStep_of_goOn hb' (phaseStep_pullup_counts hp' (hlow hs) ht)

end Sys2Proof.Machine
end

section
/-!
The transceiver's cycles as the meaning of a command (40_transceiver.md R90 to R100): in a busy block outside `EXEC` a command means the one
clock cycle, so each statement is a phase step, and the servo's cells change at most at the end of a write's frame.
-/

namespace Sys2Proof.Machine

/-! ### A command of a busy block -/

theorem exec_writeReg_busy {s : State} (addr : Byte) (value : Half) (hb : s.busy = true) (hp : s.phase ≠ .exec) :
    exec (.writeReg addr value) s = .next (cycleStep s) :=
  congrArg Host.Outcome.next (commandCycle_busy hb hp _ _)

theorem exec_read_busy {s : State} {i : Instr} (hi : IsRead i) (hb : s.busy = true) (hp : s.phase ≠ .exec) :
    exec i s = .next (cycleStep s) := by
  rcases hi with rfl | ⟨addr, value, rfl⟩
  · exact congrArg Host.Outcome.next (commandCycle_busy hb hp _ _)
  · exact congrArg Host.Outcome.next (commandCycle_busy hb hp _ _)

/-- A listening block sends nothing, so no servo register changes. -/
theorem keepsServoRegs_of_listens {s : State} (hp : s.phase.Listens) : KeepsServoRegs s (cycleStep s) := fun k =>
  congrArg (Memory.read · k) (servoNext_regs_of_not_txEnd fun hend => hp.not_tx hend.1)

theorem keepsServoRegs_of_tx_counts {s : State} (ht : s.t ≠ s.cfg.txCycles s.txlen.toNat - 1) :
    KeepsServoRegs s (cycleStep s) := fun k =>
  congrArg (Memory.read · k) (servoNext_regs_of_not_txEnd fun hend => ht ((txEnds_iff s).mp hend.2))

theorem Phase.Listens.not_exec {p : Phase} (h : p.Listens) : p ≠ .exec := by
  rcases h with rfl | rfl | rfl | rfl | rfl <;> decide

/-- What a read means in a phase that listens: one clock cycle, which leaves the servo's registers alone. -/
theorem exec_read_listens {s t : State} {i : Instr} (hi : IsRead i) (hb : s.busy = true) (hp : s.phase.Listens)
    (h : cycleStep s = t) : ∃ u, exec i s = .next u ∧ KeepsServoRegs s u ∧ u = t :=
  ⟨_, exec_read_busy hi hb hp.not_exec, keepsServoRegs_of_listens hp, h⟩

/-! ### The line driver -/

/-- Settles O40: one law of `lineDrive` for each group of phases. -/
theorem lineDriverFollowsThePhase : Obligations.LineDriverFollowsThePhase :=
  fun _ => ⟨lineDrive_of_attachment, lineDrive_of_tx, lineDrive_of_receiving⟩

/-! ### Sending -/

/-- A write request that a servo reads from the buffer is all of the buffer. -/
theorem txbuf_of_writeRequest {s : State} {a lo hi c : Byte}
    (h : decodeRequest (txFrame s) = .ok (.wireWriteRequest a lo hi c)) : s.txbuf = writeRequestBuf a lo hi c := by
  rcases decodeRequest_ok h with ⟨_, _, -, hi, -⟩ | ⟨a', lo', hi', c', hf, hi, -⟩ <;> cases hi
  exact (congrArg State.txbuf (withWriteRequest_self hf)).symm

/-- A cycle changes no servo register unless a write request stands in the buffer. -/
theorem servoNext_regs_or_writeRequest (s : State) :
    (servoNext s).regs = s.servo.regs ∨
      ∃ a lo hi c, decodeRequest (txFrame s) = .ok (.wireWriteRequest a lo hi c) := by
  rcases servoNext_cases s with h | ⟨m, h⟩
  · exact .inl (by rw [h, servoAdvance_regs])
  · rcases servoTake_cases m (txFrame s) (servoAdvance s.servo) with ⟨a, lo, hi, c, hreq, -⟩ | ⟨a, c, hreq, -⟩ | htake
    · exact .inr ⟨a, lo, hi, c, hreq⟩
    · exact .inl (servoNext_regs_of_readRequest hreq)
    · exact .inl (by rw [h, htake, servoAdvance_regs])

/-- Whatever stands in the buffer, a cycle changes at most the register that the buffer's third byte names. -/
theorem servoNext_read_other {s : State} {k : Nat} (hlo : k ≠ 2 * s.txbuf.b2.toNat) (hhi : k ≠ 2 * s.txbuf.b2.toNat + 1) :
    (servoNext s).regs.read k = s.servo.regs.read k := by
  rcases servoNext_regs_or_writeRequest s with h | ⟨a, lo, hi, c, hreq⟩
  · rw [h]
  · rw [txbuf_of_writeRequest hreq] at hlo hhi
    exact servoNext_read_of_writeRequest hreq hlo hhi

/-- A frame of five bytes is no write request, so no register changes. -/
theorem servoNext_regs_of_short_frame {s : State} (hlen : s.txlen = 5#3) : (servoNext s).regs = s.servo.regs := by
  rcases servoNext_regs_or_writeRequest s with h | ⟨a, lo, hi, c, hreq⟩
  · exact h
  · rcases decodeRequest_ok hreq with ⟨_, _, -, hread, -⟩ | ⟨_, _, _, _, hframe, -⟩
    · cases hread
    · have hcount := txFrame_length s
      simp [hframe, hlen] at hcount

theorem txCycles_seven (p : Params) : p.txCycles (7#3).toNat = p.bitCycles * 71 := rfl

theorem txCycles_five (p : Params) : p.txCycles (5#3).toNat = p.bitCycles * 51 := rfl

/-- Settles O18: the two cases of the phase step in `TX`, and at the frame's end the register it names. -/
theorem writeRegSends : Obligations.WriteRegSends := by
  intro s addr value hb hp hop hlen
  have hexec := exec_writeReg_busy addr value hb (by simp [hp])
  rw [← txCycles_seven, ← hlen]
  refine ⟨fun ht => ⟨_, hexec, keepsServoRegs_of_tx_counts ht, cycleStep_of_goOn hb (phaseStep_tx_counts hp ht)⟩,
    fun ht => ⟨_, hexec, ?_, fun k hlo hhi => servoNext_read_other hlo hhi⟩⟩
  rw [cycleStep_of_complete hb (phaseStep_tx_write_ends hp ht hop), if_neg (by simp [hop])]

/-- Settles O20: the two cases of the phase step in `TX`; the line is released in `PRESENCE`. -/
theorem readRegSends : Obligations.ReadRegSends := by
  intro s i hi hb hp hop hlen
  have hexec := exec_read_busy hi hb (by simp [hp])
  have hkeep : KeepsServoRegs s (cycleStep s) := fun k =>
    congrArg (Memory.read · k) (servoNext_regs_of_short_frame hlen)
  rw [← txCycles_five, ← hlen]
  refine ⟨fun ht => ⟨_, hexec, hkeep, cycleStep_of_goOn hb (phaseStep_tx_counts hp ht)⟩, fun ht => ?_⟩
  have hstep := cycleStep_of_goOn hb (phaseStep_tx_read_ends hp ht hop)
  exact ⟨_, hexec, hkeep, by rw [hstep, lineDrive_of_receiving (.inl rfl)], hstep⟩

/-! ### Receiving -/

theorem level_low_of_not_high {l : Level} (h : ¬l = .H) : l = .L := by
  cases l with
  | L => rfl
  | H => exact absurd rfl h

/-- A completion of a read with an error keeps `RDATA` (42_sequencer.md R139). -/
theorem cycleStep_of_error {s : State} {code : ResultCode} (hb : s.busy = true) (h : phaseStep s = complete code s)
    (hcode : code ≠ .ok) : cycleStep s = completedWith code s s := by
  rw [cycleStep_of_complete hb h, if_neg fun hgood => hcode hgood.2]

/-- Settles O22: the three cases of the phase step in `PRESENCE`. -/
theorem presenceIsSampledOnce : Obligations.PresenceIsSampledOnce := by
  intro s i hi hb hp
  refine exec_read_listens hi hb (.inl hp) ?_
  split_ifs with ht hs
  · exact cycleStep_of_error hb (phaseStep_presence_high hp ht hs) (by decide)
  · exact cycleStep_of_goOn hb (phaseStep_presence_low hp ht (level_low_of_not_high hs))
  · exact cycleStep_of_goOn hb (phaseStep_presence_counts hp ht)

/-- Settles O23: the two cases of the phase step in `SETTLE`. -/
theorem settleWaits : Obligations.SettleWaits := by
  intro s i hi hb hp
  refine exec_read_listens hi hb (.inr (.inl hp)) ?_
  split_ifs with ht
  · exact cycleStep_of_goOn hb (phaseStep_settle_ends hp ht)
  · exact cycleStep_of_goOn hb (phaseStep_settle_counts hp ht)

/-- The sample before this cycle's is low and this cycle's is high: the condition of `startEdge` (40_transceiver.md R97). -/
theorem startEdge_iff (s : State) : startEdge s = true ↔ s.sprev = .L ∧ s.sync2 = .H := by simp [startEdge]

theorem phaseStep_rxWait_no_edge_counts {s : State} (hp : s.phase = .rxWait) (hedge : ¬(s.sprev = .L ∧ s.sync2 = .H))
    (ht : s.t ≠ s.cfg.startTimeoutCycles - 1) : phaseStep s = goOn (tick s) := by
  simp only [phaseStep, hp, rxWaitStep, startEdge_iff, hedge, ht, if_false]

theorem phaseStep_rxWait_ends {s : State} (hp : s.phase = .rxWait) (hedge : ¬(s.sprev = .L ∧ s.sync2 = .H))
    (ht : s.t = s.cfg.startTimeoutCycles - 1) : phaseStep s = complete .corruptResponse s := by
  simp only [phaseStep, hp, rxWaitStep, startEdge_iff, hedge, ht, if_false, if_true]

/-- Settles O24: the three cases of the phase step in `RX_WAIT`; the edge is asked first. -/
theorem startEdgeOrTimeout : Obligations.StartEdgeOrTimeout := by
  intro s i hi hb hp
  refine exec_read_listens hi hb (.inr (.inr (.inl hp))) ?_
  split_ifs with hedge ht
  · obtain ⟨hprev, hs⟩ := hedge
    exact cycleStep_of_goOn hb (phaseStep_rxWait_edge hp hprev hs)
  · exact cycleStep_of_error hb (phaseStep_rxWait_ends hp hedge ht) (by decide)
  · exact cycleStep_of_goOn hb (phaseStep_rxWait_no_edge_counts hp hedge ht)

/-- Settles O25: the phase step of `RX_BITS` at a data bit, at the stop bit and between the sample points. -/
theorem bitsAreSampled : Obligations.BitsAreSampled := by
  intro s i hi hb hp hbit
  have hpos : 0 < s.cfg.bitCycles := by omega
  have hlistens : s.phase.Listens := .inr (.inr (.inr (.inl hp)))
  refine ⟨fun j hj ht => ?_, fun ht => ?_, fun ht => ?_⟩
  · exact ⟨_, _, exec_read_busy hi hb hlistens.not_exec, keepsServoRegs_of_listens hlistens,
      cycleStep_of_goOn hb (phaseStep_rxBits_data hp hpos ht (Nat.lt_succ_of_le hj)),
      fun k hk => setBit_getLsbD _ _ hk⟩
  · refine exec_read_listens hi hb hlistens ?_
    rw [cycleStep_of_goOn hb (phaseStep_rxBits_stop hp hpos ht), stopSample, apply_ite (wentOn s)]
    rfl
  · exact exec_read_listens hi hb hlistens (cycleStep_of_goOn hb (phaseStep_rxBits_counts hp ht))

/-- Validation with its checksum as a sum of bytes (41_framer.md R116, R119). -/
theorem validate_eq (s : State) :
    validate s =
      if s.rxbuf.b0 = 0x69#8 ∧ s.rxbuf.b2 = s.addr ∧ s.rxbuf.b3 = 0x02#8 ∧
          s.rxbuf.b6 = s.rxbuf.b1 + s.rxbuf.b2 + s.rxbuf.b3 + s.rxbuf.b4 + s.rxbuf.b5 ∧ s.ferr = false
      then .ok else .corruptResponse := by
  rw [validate, validateFrame, responseCks_eq, responseLeader]

/-- Settles O26: the three cases of the phase step in `PULLUP`, the high line by `validate_eq`. -/
theorem pullupIsChecked : Obligations.PullupIsChecked := by
  intro s i hi hb hp hop
  refine exec_read_listens hi hb (.inr (.inr (.inr (.inr hp)))) ?_
  have hvalid := validate_eq s
  split_ifs with hs hgood ht
  · rw [if_pos hgood] at hvalid
    rw [cycleStep_of_complete hb (phaseStep_pullup_high hp hs), hvalid, if_pos ⟨hop, rfl⟩]
    rfl
  · rw [if_neg hgood] at hvalid
    exact cycleStep_of_error hb (hvalid ▸ phaseStep_pullup_high hp hs) (by decide)
  · exact cycleStep_of_error hb (phaseStep_pullup_ends hp (level_low_of_not_high hs) ht) (by decide)
  · exact cycleStep_of_goOn hb (phaseStep_pullup_counts hp (level_low_of_not_high hs) ht)

end Sys2Proof.Machine
end

section
/-!
A write from its acceptance to its completion (40_transceiver.md R91, R93; 42_sequencer.md R133): the frame that acceptance builds stands on
the line for 71 bit periods.
-/

namespace Sys2Proof.Machine

theorem txCycles_write_eq {p : Params} (h : p.valid = true) : 71 * p.bitCycles = p.txCycles (7#3).toNat - 1 + 1 := by
  rw [Nat.sub_add_cancel (txCycles_pos h _), txCycles_seven, Nat.mul_comm]

/-- Settles O47: the course of `TX` from the acceptance on (`Accepted.sends`), with the accepted frame in the buffer, and the completion at its
end. -/
theorem writeRegSendsItsFrame : Obligations.WriteRegSendsItsFrame := by
  intro s addr value hinv hatt hb hf hquiet
  have hacc := accepted_write hinv hatt hb hf
  have hframe : (cycleStep s).txbuf = writeFrame addr value := txbuf_of_writeRequest hacc.request
  have hlen := txCycles_write_eq hinv.1
  refine ⟨fun n hn => ⟨_, runCycles_of_quiet hinv (hquiet.mono (by omega)), ?_⟩, _, runCycles_of_quiet hinv hquiet, ?_⟩
  · have hsends := hacc.sends (n := n) (by omega)
    rw [Function.iterate_succ_apply]
    refine ⟨hsends.same.busy, ?_⟩
    rw [lineDrive_of_tx hsends.phase, hsends.same.cfg, hsends.same.txbuf, hsends.count, hacc.cfg, hframe]
  · obtain ⟨u, hu, hsends, hlast⟩ := hacc.last
    have hop := hsends.same.op.trans hacc.op
    obtain ⟨hbusy, hdone, herr, hrdata, hattached⟩ :=
      cycleStep_completes hsends.same.busy (phaseStep_tx_write_ends hsends.phase hlast hop)
    rw [if_neg (by simp [hop])] at hrdata
    rw [Function.iterate_succ_apply, hlen, Function.iterate_succ_apply', hu]
    exact ⟨hbusy, hdone, herr, hrdata.trans (hsends.same.rdata.trans hacc.rdata),
      hattached.trans (hsends.same.attached.trans hacc.attached)⟩

end Sys2Proof.Machine
end

section
/-!
Two runs that differ in the host's accesses alone (70_reset_and_hazards.md R185; 40_transceiver.md R102): while a command runs, everything but
`DONE`, `OVR` and the listed accesses takes the same course in both.
-/

namespace Sys2Proof.Machine

/-- The state with what the host's accesses can change in a busy block hidden: `DONE`, `OVR` and the listed inputs. -/
def hideBus (s : State) : State := { s with done := false, ovr := false, inputs := [] }

/-- The listed levels of `rst` and of the line, without the host's accesses. -/
def listedLines (s : State) : List (Bool × Level) := s.inputs.map fun x => (x.rst, x.env)

theorem agreeButBus_iff {s s' : State} : AgreeButBus s s' ↔ hideBus s = hideBus s' ∧ listedLines s = listedLines s' := by
  refine and_congr_left fun _ => ⟨fun h => ?_, fun h => ?_⟩
  · rw [← h]; rfl
  · cases s
    cases s'
    simp_all [hideBus]

theorem listedLines_of_tail {s t : State} (h : t.inputs = s.inputs.tail) : listedLines t = (listedLines s).tail := by
  rw [listedLines, h, List.map_tail, listedLines]

/-- This cycle's `rst` and line are the first listed ones, or free values of the cycle count. -/
theorem currentInput_lines (s : State) :
    ((currentInput s).rst, (currentInput s).env) = (listedLines s).headD (false, Config.freeEnv s.cycle) := by
  unfold currentInput listedLines
  cases s.inputs <;> rfl

section
variable {s s' : State}

theorem AgreeButBus.cfg (h : AgreeButBus s s') : s.cfg = s'.cfg := (congrArg State.cfg (agreeButBus_iff.mp h).1 :)
theorem AgreeButBus.busy (h : AgreeButBus s s') : s.busy = s'.busy := (congrArg State.busy (agreeButBus_iff.mp h).1 :)
theorem AgreeButBus.err (h : AgreeButBus s s') : s.err = s'.err := (congrArg State.err (agreeButBus_iff.mp h).1 :)

theorem AgreeButBus.rst_env (h : AgreeButBus s s') :
    (currentInput s).rst = (currentInput s').rst ∧ (currentInput s).env = (currentInput s').env := by
  obtain ⟨hhide, hlines⟩ := agreeButBus_iff.mp h
  have hcycle : s.cycle = s'.cycle := (congrArg State.cycle hhide :)
  rw [← Prod.mk.injEq, currentInput_lines, currentInput_lines, hlines, hcycle]

/-- The resolved wire shows nothing of the host's accesses. -/
theorem AgreeButBus.wire_eq (h : AgreeButBus s s') : wire s = wire s' := by
  obtain ⟨hhide, -⟩ := agreeButBus_iff.mp h
  have hdrive : lineDrive s = lineDrive s' := (congrArg lineDrive hhide :)
  have hcfg : s.cfg = s'.cfg := h.cfg
  have hservo : s.servo = s'.servo := (congrArg State.servo hhide :)
  obtain ⟨-, henv⟩ := h.rst_env
  unfold wire envLevel
  rw [hdrive, hcfg, hservo, henv]

end

/-! ### One phase step -/

/-- No phase step reads what is hidden: each asks conditions that the hidden state shares, and a completion alone writes `DONE`. -/
theorem phaseStep_hideBus (s : State) : hideBus (phaseStep s).next = hideBus (phaseStep (hideBus s)).next := by
  have hphase : (hideBus s).phase = s.phase := rfl
  unfold phaseStep
  rw [hphase]
  cases s.phase
  case idle => rfl
  case exec =>
    have hop : (hideBus s).op = s.op := rfl
    unfold execStep
    rw [hop]
    cases s.op <;> rfl
  case tx => simp only [txStep, apply_ite Progress.next, apply_ite hideBus]; rfl
  case presence => simp only [presenceStep, apply_ite Progress.next, apply_ite hideBus]; rfl
  case settle => simp only [settleStep, apply_ite Progress.next, apply_ite hideBus]; rfl
  case rxWait => simp only [rxWaitStep, apply_ite Progress.next, apply_ite hideBus]; rfl
  case rxBits => simp only [rxBitsStep, stopSample, apply_ite goOn, apply_ite Progress.next, apply_ite hideBus]; rfl
  case pullup => simp only [pullupStep, apply_ite Progress.next, apply_ite hideBus]; rfl

/-! ### One step -/

theorem hideBus_busWrite {s : State} (hb : s.busy = true) (p : Progress) : hideBus (busWrite s p) = hideBus p.next := by
  rw [busWrite_busy hb]
  rfl

/-- The end of a cycle reads nothing of what is hidden but the line. -/
theorem hideBus_endOfCycle (s n : State) :
    hideBus (endOfCycle s n) =
      { hideBus n with
        sync1 := wire s
        sync2 := (hideBus s).sync1
        sprev := (hideBus s).sync2
        servo := servoNext (hideBus s)
        cycle := (hideBus s).cycle + 1 } := rfl

theorem hideBus_resetCycle (s : State) :
    hideBus (resetCycle s) = hideBus { resetCycle (hideBus s) with sync1 := wire s } := rfl

section
variable {s s' : State}

/-- The states after a cycle, which has used up one listed input of each, agree on the other ones. -/
theorem AgreeButBus.next {t t' : State} (h : AgreeButBus s s') (hhide : hideBus t = hideBus t')
    (ht : t.inputs = s.inputs.tail) (ht' : t'.inputs = s'.inputs.tail) : AgreeButBus t t' := by
  obtain ⟨-, hlines⟩ := agreeButBus_iff.mp h
  refine agreeButBus_iff.mpr ⟨hhide, ?_⟩
  rw [listedLines_of_tail ht, listedLines_of_tail ht', hlines]

theorem AgreeButBus.after_cycle (h : AgreeButBus s s') (hb : s.busy = true) :
    AgreeButBus (cycleStep s) (cycleStep s') := by
  obtain ⟨hhide, -⟩ := agreeButBus_iff.mp h
  have hphase : hideBus (busWrite s (phaseStep s)) = hideBus (busWrite s' (phaseStep s')) := by
    rw [hideBus_busWrite hb, hideBus_busWrite (h.busy ▸ hb), phaseStep_hideBus s, phaseStep_hideBus s', hhide]
  refine h.next ?_ rfl rfl
  rw [cycleStep, cycleStep, hideBus_endOfCycle, hideBus_endOfCycle, hphase, hhide, h.wire_eq]

theorem AgreeButBus.after_reset (h : AgreeButBus s s') : AgreeButBus (resetCycle s) (resetCycle s') := by
  obtain ⟨hhide, -⟩ := agreeButBus_iff.mp h
  refine h.next ?_ rfl rfl
  rw [hideBus_resetCycle, hideBus_resetCycle, hhide, h.wire_eq]

/-- A step of a busy block takes two states that agree but for the bus to two such states. -/
theorem AgreeButBus.after_step {t : State} (h : AgreeButBus s s') (hb : s.busy = true) (hstep : step s = .next t) :
    ∃ t', step s' = .next t' ∧ AgreeButBus t t' := by
  obtain ⟨hrst', -⟩ := h.rst_env
  rcases step_next hstep with ⟨hrst, hcfg, rfl⟩ | ⟨hrst, ⟨hcfg, herr⟩, rfl⟩
  · exact ⟨_, step_of_rst (h.cfg ▸ hcfg) (hrst' ▸ hrst), h.after_reset⟩
  · exact ⟨_, step_of_no_rst ⟨h.cfg ▸ hcfg, h.err ▸ herr⟩ (hrst' ▸ hrst), h.after_cycle hb⟩

end

/-- Settles O53, by induction on the number of cycles, each of them `AgreeButBus.after_step`. -/
theorem hostCannotDisturbACommand : Obligations.HostCannotDisturbACommand := by
  intro n
  induction n with
  | zero => rintro s s' t hagree - ⟨⟩; exact ⟨s', rfl, hagree⟩
  | succ n ih =>
    intro s s' t hagree hbusy hrun
    obtain ⟨u, hstep, hrest⟩ := runCycles_succ_next hrun
    have hb : s.busy = true := by
      obtain ⟨_, ⟨⟩, hb⟩ := hbusy 0 (Nat.succ_pos n)
      exact hb
    obtain ⟨u', hstep', hagree'⟩ := hagree.after_step hb hstep
    have hbusy' : ∀ k, k < n → ∃ v, runCycles k u = .next v ∧ v.busy = true := fun k hk => by
      rw [← runCycles_succ hstep]
      exact hbusy (k + 1) (Nat.succ_lt_succ hk)
    obtain ⟨t', hrun', ht⟩ := ih u u' t hagree' hbusy' hrest
    exact ⟨t', (runCycles_succ hstep' n).trans hrun', ht⟩

end Sys2Proof.Machine
end

section
/-!
One received byte against the pure function `RxByte` (40_transceiver.md R97 to R99): the first start edge and the sampled byte as facts about
the samples, then the courses of `RX_WAIT` and `RX_BITS` in a block whose far end is an unconstrained line.
-/

namespace Sys2Proof.Machine

/-! ### The pure function -/

/-- The sample before cycle `k` of the window is low and that cycle's is high (40_transceiver.md R97). -/
def EdgeAt (lvl : Nat → Level) (k : Nat) : Prop := lvl k = .L ∧ lvl (k + 1) = .H

/-- `firstEdge` finds no edge among the cycles it looks at only if there is none. -/
theorem not_edgeAt_of_firstEdge_none {lvl : Nat → Level} {n k : Nat} (h : firstEdge lvl n k = none) {j : Nat} (hk : k ≤ j)
    (hj : j < k + n) : ¬EdgeAt lvl j := by
  induction n generalizing k with
  | zero => omega
  | succ n ih =>
    rw [firstEdge] at h
    split_ifs at h with hedge
    rcases Nat.eq_or_lt_of_le hk with rfl | hlt
    · exact hedge
    · exact ih h hlt (by omega)

/-- The edge that `firstEdge` finds is one, and the first. -/
theorem edgeAt_of_firstEdge_some {lvl : Nat → Level} {n k e : Nat} (h : firstEdge lvl n k = some e) :
    k ≤ e ∧ e < k + n ∧ EdgeAt lvl e ∧ ∀ j, k ≤ j → j < e → ¬EdgeAt lvl j := by
  induction n generalizing k with
  | zero => cases h
  | succ n ih =>
    rw [firstEdge] at h
    split_ifs at h with hedge
    · cases h
      exact ⟨Nat.le_refl _, by omega, hedge, by omega⟩
    · obtain ⟨hle, hlt, hfound, hfirst⟩ := ih h
      refine ⟨by omega, by omega, hfound, fun j hk hj => ?_⟩
      rcases Nat.eq_or_lt_of_le hk with rfl | hlater
      · exact hedge
      · exact hfirst j hlater hj

/-- Bit `k` of a sampled byte is the sample at its sample point. -/
theorem sampledByte_getLsbD (p : Params) (lvl : Nat → Level) (e : Nat) {n k : Nat} (hn : n ≤ 8) (hk : k < n) :
    (sampledByte p lvl e n).getLsbD k = dataBit p (lvl (e + p.samplePoint k + 1)) := by
  induction n with
  | zero => exact absurd hk (Nat.not_lt_zero _)
  | succ n ih =>
    rw [sampledByte, setBit_getLsbD _ _ (by omega)]
    split_ifs with heq
    · rw [heq]
    · exact ih (by omega) (by omega)

/-! ### The bits of a byte -/

/-- Before the stop sample `RX_BITS` counts on, and the bit whose sample point it is, if any, takes the sample (40_transceiver.md R98). -/
theorem phaseStep_rxBits_before_stop {s : State} (hp : s.phase = .rxBits) (hbit : 0 < s.cfg.bitCycles)
    (ht : s.t < s.cfg.samplePoint 8) :
    ∃ v, phaseStep s = goOn (tick { s with shift := v }) ∧
      ∀ i, i < 8 → v.getLsbD i = if s.t = s.cfg.samplePoint i then dataBit s.cfg s.sync2 else s.shift.getLsbD i := by
  by_cases hat : ∃ j, s.t = s.cfg.samplePoint j
  · obtain ⟨j, hj⟩ := hat
    have hlt : j < 8 := (samplePoint_lt_iff hbit).mp (hj ▸ ht)
    refine ⟨_, phaseStep_rxBits_data hp hbit hj hlt, fun i hi => ?_⟩
    rw [setBit_getLsbD _ _ hi, hj]
    exact if_congr ((samplePoint_injective hbit).eq_iff.symm.trans eq_comm) rfl rfl
  · have hno : ∀ j, s.t ≠ s.cfg.samplePoint j := fun j hj => hat ⟨j, hj⟩
    exact ⟨s.shift, phaseStep_rxBits_counts hp hno, fun i _ => (if_neg (hno i)).symm⟩

/-! ### Runs of a runnable state -/

/-- Every cycle leaves a result code that can occur. -/
theorem runnable_cycleStep {s : State} (h : Runnable s) : Runnable (cycleStep s) := by
  obtain ⟨hcfg, herr⟩ := h
  refine ⟨by rwa [cycleStep_cfg], ?_⟩
  rw [cycleStep, endOfCycle_err, (busWrite_busy_err s _).2]
  split_ifs
  · decide
  · rcases phaseStep_cases s with ⟨code, attached, e⟩ | ⟨_, _, _, _, _, _, e⟩ <;> rw [e]
    · exact code.code_le
    · exact herr

/-- A run without a reset from any runnable state is the clock cycle, iterated. -/
theorem runCycles_of_runnable {n : Nat} {s : State} (hs : Runnable s) (hquiet : Quiet n s) :
    runCycles n s = .next (cycleStep^[n] s) := by
  induction n generalizing s with
  | zero => rfl
  | succ n ih =>
    rw [runCycles_succ (step_of_no_rst hs hquiet.no_rst), ih (runnable_cycleStep hs) (hquiet.tail rfl),
      Function.iterate_succ_apply]

/-! ### The samples of an unconstrained line -/

/-- `s` is the state `k` cycles after `s₀` of a read that listens to an unconstrained line: the synchroniser holds the samples that
`s₀` foretells. -/
structure InSync (s₀ : State) (k : Nat) (s : State) : Prop where
  same : SameCommand s₀ s
  inputs : s.inputs = s₀.inputs.drop k
  cycle : s.cycle = s₀.cycle + k
  sprev : s.sprev = samples s₀ k
  sync2 : s.sync2 = samples s₀ (k + 1)
  sync1 : s.sync1 = samples s₀ (k + 2)

section
variable {s₀ s n : State} {k : Nat}

theorem InSync.refl (hb : s₀.busy = true) : InSync s₀ 0 s₀ := ⟨.refl hb, rfl, rfl, rfl, rfl, rfl⟩

/-- The line in this cycle is the sample of two cycles later (40_transceiver.md R92). -/
theorem InSync.wire_eq (h : InSync s₀ k s) (hfar : s₀.servo.far = .input) (hp : s.phase.Listens) :
    wire s = samples s₀ (k + 3) := by
  rw [wire_released (lineDrive_of_receiving hp), envLevel, h.same.far, hfar]
  simp only [samples, futureEnv, currentInput, h.inputs, h.cycle]

theorem InSync.next (h : InSync s₀ k s) (hfar : s₀.servo.far = .input) (hp : s.phase.Listens)
    (hstep : phaseStep s = goOn n) : InSync s₀ (k + 1) (cycleStep s) where
  same := h.same.trans (sameCommand_cycleStep h.same.busy hstep)
  inputs := by rw [cycleStep, endOfCycle_inputs, h.inputs, List.tail_drop]
  cycle := by rw [cycleStep, endOfCycle_cycle, h.cycle, Nat.add_assoc]
  sprev := h.sync2
  sync2 := h.sync1
  sync1 := h.wire_eq hfar hp

end

/-! ### The two courses -/

/-- The course of `RX_WAIT` in the `k`-th cycle of its window: no start edge has been seen. -/
structure InWindow (s₀ : State) (k : Nat) (s : State) : Prop where
  sync : InSync s₀ k s
  phase : s.phase = .rxWait
  count : s.t = k
  rxidx : s.rxidx = s₀.rxidx
  ferr : s.ferr = s₀.ferr
  rxbuf : s.rxbuf = s₀.rxbuf

/-- The course of `RX_BITS`, `k` cycles after a start edge in cycle `e` of the window: the bits sampled so far are the samples at their sample
points. -/
structure InByte (s₀ : State) (e k : Nat) (s : State) : Prop where
  sync : InSync s₀ (e + k) s
  phase : s.phase = .rxBits
  count : s.t = k
  rxidx : s.rxidx = s₀.rxidx
  ferr : s.ferr = s₀.ferr
  rxbuf : s.rxbuf = s₀.rxbuf
  bits : ∀ j, j < 8 → s₀.cfg.samplePoint j < k →
    s.shift.getLsbD j = dataBit s₀.cfg (samples s₀ (e + s₀.cfg.samplePoint j + 1))

section
variable {s₀ s : State} {e k : Nat}

theorem InWindow.edge_iff (h : InWindow s₀ k s) : (s.sprev = .L ∧ s.sync2 = .H) ↔ EdgeAt (samples s₀) k := by
  rw [h.sync.sprev, h.sync.sync2, EdgeAt]

/-- A cycle of the window without an edge, before its last one. -/
theorem InWindow.next (h : InWindow s₀ k s) (hfar : s₀.servo.far = .input) (hedge : ¬EdgeAt (samples s₀) k)
    (hk : k < s₀.cfg.startTimeoutCycles - 1) : InWindow s₀ (k + 1) (cycleStep s) := by
  have hstep := phaseStep_rxWait_no_edge_counts h.phase (h.edge_iff.not.mpr hedge)
    (by rw [h.count, h.sync.same.cfg]; omega)
  have hsync := h.sync.next hfar (.inr (.inr (.inl h.phase))) hstep
  rw [cycleStep_of_goOn h.sync.same.busy hstep] at hsync ⊢
  exact ⟨hsync, h.phase, congrArg (· + 1) h.count, h.rxidx, h.ferr, h.rxbuf⟩

/-- A window without an edge up to cycle `k` is still open there. -/
theorem inWindow_of_no_edge (hb : s₀.busy = true) (hp : s₀.phase = .rxWait) (ht : s₀.t = 0) (hfar : s₀.servo.far = .input)
    (hk : k < s₀.cfg.startTimeoutCycles) (hno : ∀ j, j < k → ¬EdgeAt (samples s₀) j) :
    InWindow s₀ k (cycleStep^[k] s₀) :=
  course_of_next ⟨.refl hb, hp, ht, rfl, rfl, rfl⟩ (fun j _ h hj => h.next hfar (hno j hj) (by omega)) (Nat.le_refl k)

/-- The cycle of the start edge. -/
theorem InWindow.starts (h : InWindow s₀ e s) (hfar : s₀.servo.far = .input) (hedge : EdgeAt (samples s₀) e)
    (hbit : 0 < s₀.cfg.bitCycles) : InByte s₀ e 1 (cycleStep s) := by
  obtain ⟨hprev, hhigh⟩ := h.edge_iff.mpr hedge
  have hstep := phaseStep_rxWait_edge h.phase hprev hhigh
  have hsync := h.sync.next hfar (.inr (.inr (.inl h.phase))) hstep
  rw [cycleStep_of_goOn h.sync.same.busy hstep] at hsync ⊢
  refine ⟨hsync, rfl, rfl, h.rxidx, h.ferr, h.rxbuf, fun j _ hj => ?_⟩
  unfold Params.samplePoint at hj
  omega

/-- A cycle of the byte before its stop sample. -/
theorem InByte.next (h : InByte s₀ e k s) (hfar : s₀.servo.far = .input) (hbit : 0 < s₀.cfg.bitCycles)
    (hk : k < s₀.cfg.samplePoint 8) : InByte s₀ e (k + 1) (cycleStep s) := by
  have hsame := h.sync.same
  obtain ⟨v, hstep, hv⟩ := phaseStep_rxBits_before_stop h.phase (hsame.cfg ▸ hbit) (by rwa [h.count, hsame.cfg])
  have hsync := h.sync.next hfar (.inr (.inr (.inr (.inl h.phase)))) hstep
  rw [cycleStep_of_goOn hsame.busy hstep] at hsync ⊢
  refine ⟨hsync, h.phase, congrArg (· + 1) h.count, h.rxidx, h.ferr, h.rxbuf, fun j hj hlt => (hv j hj).trans ?_⟩
  rw [h.count, hsame.cfg, h.sync.sync2]
  split_ifs with heq
  · rw [heq]
  · exact h.bits j hj (lt_of_le_of_ne (Nat.le_of_lt_succ hlt) (Ne.symm heq))

/-- From a byte's start edge on its bits are sampled, up to the stop bit. -/
theorem InByte.reaches_stop (h : InByte s₀ e 1 s) (hfar : s₀.servo.far = .input) (hbit : 0 < s₀.cfg.bitCycles) :
    InByte s₀ e (s₀.cfg.samplePoint 8) (cycleStep^[s₀.cfg.samplePoint 8 - 1] s) := by
  have hpos : 1 ≤ s₀.cfg.samplePoint 8 := by unfold Params.samplePoint; omega
  have hcourse : InByte s₀ e (s₀.cfg.samplePoint 8 - 1 + 1) (cycleStep^[s₀.cfg.samplePoint 8 - 1] s) :=
    course_of_next (P := fun k => InByte s₀ e (k + 1)) h (fun k _ hin hk => hin.next hfar hbit (by omega)) (Nat.le_refl _)
  rwa [Nat.sub_add_cancel hpos] at hcourse

/-- At the stop sample `shift` is the sampled byte. -/
theorem InByte.shift_eq (h : InByte s₀ e (s₀.cfg.samplePoint 8) s) (hbit : 0 < s₀.cfg.bitCycles) :
    s.shift = sampledByte s₀.cfg (samples s₀) e 8 :=
  BitVec.eq_of_getLsbD_eq fun j hj => by
    rw [sampledByte_getLsbD _ _ _ (Nat.le_refl 8) hj, h.bits j hj ((samplePoint_lt_iff hbit).mpr hj)]

/-- What the stop sample's cycle leaves of the received byte. -/
theorem InByte.stops (h : InByte s₀ e (s₀.cfg.samplePoint 8) s) (hbit : 0 < s₀.cfg.bitCycles) :
    (cycleStep s).busy = true ∧ (cycleStep s).t = 0 ∧
      (cycleStep s).rxbuf = s₀.rxbuf.set s₀.rxidx.toNat (sampledByte s₀.cfg (samples s₀) e 8) ∧
      (cycleStep s).ferr = (s₀.ferr || samples s₀ (e + s₀.cfg.samplePoint 8 + 1) == .H) ∧
      (s₀.rxidx = 6#3 → (cycleStep s).phase = .pullup) ∧
      (s₀.rxidx ≠ 6#3 → (cycleStep s).phase = .rxWait ∧ (cycleStep s).rxidx = s₀.rxidx + 1#3) := by
  have hsame := h.sync.same
  have hstep := phaseStep_rxBits_stop h.phase (hsame.cfg ▸ hbit) (by rw [h.count, hsame.cfg])
  rw [cycleStep_of_goOn hsame.busy hstep, ← h.shift_eq hbit, ← h.rxbuf, ← h.ferr, ← h.rxidx, ← h.sync.sync2]
  by_cases hlast : s.rxidx = 6#3
  · rw [stopSample, if_pos hlast]
    exact ⟨hsame.busy, rfl, rfl, rfl, fun _ => rfl, fun hmore => absurd hlast hmore⟩
  · rw [stopSample, if_neg hlast]
    exact ⟨hsame.busy, rfl, rfl, rfl, fun h => absurd h hlast, fun _ => ⟨rfl, rfl⟩⟩

end

/-- Settles O28: without an edge the window is still open in its last cycle and times out there; from the first edge on the course of `RX_BITS`
leads to the stop sample. -/
theorem receptionIsRxByte : Obligations.ReceptionIsRxByte := by
  intro s hs hb hp ht _ _ hfar
  obtain ⟨hbit, -, -, hwindow, -⟩ := params_of_valid hs.1
  have hpos : 0 < s.cfg.bitCycles := by omega
  have hopen := fun k hk => inWindow_of_no_edge (k := k) hb hp ht hfar hk
  unfold rxByte
  cases hfirst : firstEdge (samples s) s.cfg.startTimeoutCycles 0 with
  | none =>
    intro hquiet
    have hno := fun j => not_edgeAt_of_firstEdge_none hfirst (Nat.zero_le j)
    have hlast := hopen (s.cfg.startTimeoutCycles - 1) (by omega) fun j hj => hno j (by omega)
    have hend := phaseStep_rxWait_ends hlast.phase (hlast.edge_iff.not.mpr (hno _ (by omega)))
      (by rw [hlast.count, hlast.sync.same.cfg])
    refine ⟨_, runCycles_of_runnable hs hquiet, ?_⟩
    rw [show s.cfg.startTimeoutCycles = s.cfg.startTimeoutCycles - 1 + 1 by omega, Function.iterate_succ_apply',
      cycleStep_of_complete hlast.sync.same.busy hend]
    exact ⟨rfl, rfl, hlast.rxbuf⟩
  | some e =>
    intro hquiet
    obtain ⟨-, hin, hedge, hbefore⟩ := edgeAt_of_firstEdge_some hfirst
    have hstarts := (hopen e (by omega) fun j => hbefore j (Nat.zero_le j)).starts hfar hedge hpos
    refine ⟨_, runCycles_of_runnable hs hquiet, ?_⟩
    have hstop := (hstarts.reaches_stop hfar hpos).stops hpos
    have hpoint : 1 ≤ s.cfg.samplePoint 8 := by unfold Params.samplePoint; omega
    rwa [← Function.iterate_succ_apply' cycleStep, ← Function.iterate_succ_apply' cycleStep e,
      ← Function.iterate_add_apply, show s.cfg.samplePoint 8 - 1 + 1 + (e + 1) = e + s.cfg.samplePoint 8 + 1 by omega] at hstop

end Sys2Proof.Machine
end

section
/-!
The framer (41_framer.md R110 to R122): the checksum as the sum of bytes in the group of bytes, and what validation asks of a response.
-/

namespace Sys2Proof.Machine

/-! ### The checksum -/

/-- The sum over the natural numbers, reduced at its end, is the sum that drops each carry as it arises (41_framer.md R110). -/
theorem cks_eq_sum (bs : List Byte) : cks bs = bs.sum := by
  induction bs with
  | nil => rfl
  | cons b bs ih =>
    calc cks (b :: bs) = BitVec.ofNat 8 (b.toNat + (bs.map BitVec.toNat).sum) := rfl
      _ = b + cks bs := by rw [BitVec.ofNat_add, BitVec.ofNat_toNat, BitVec.setWidth_eq, ← cks_eq_of_sum]
      _ = (b :: bs).sum := by rw [ih, List.sum_cons]

/-- Settles O36: bytes add as a commutative group, so their sum may be taken in any order and from either end (`cks_eq_sum`). -/
theorem checksumIsAnAccumulator : Obligations.ChecksumIsAnAccumulator := by
  refine ⟨fun bs => BitVec.toNat_ofNat _ _, fun bs => ?_, fun bs cs hperm => ?_, fun bs => ?_⟩
  · exact (cks_eq_sum bs).trans List.sum_eq_foldl
  · rw [cks_eq_sum, cks_eq_sum, hperm.sum_eq]
  · rw [cks_eq_sum, cks_eq_sum, List.sum_cons, BitVec.zero_add]

/-! ### Validation -/

/-- What validation asks of a response received without a framing error (41_framer.md R116, R119). -/
theorem validateFrame_ok_iff {f : FrameBuf} {addr : Byte} :
    validateFrame f addr false = .ok ↔
      f.b0 = responseLeader ∧ f.b2 = addr ∧ f.b3 = 0x02#8 ∧ f.b6 = f.b1 + f.b2 + f.b3 + f.b4 + f.b5 := by
  simp [validateFrame]

theorem validateFrame_corrupt_iff {f : FrameBuf} {addr : Byte} {ferr : Bool} :
    validateFrame f addr ferr = .corruptResponse ↔ validateFrame f addr ferr ≠ .ok := by
  rcases validateFrame_cases f addr ferr with h | h <;> simp [h]

/-- Two good responses to one request that differ in one byte at most are equal: the leader, the echoes and the checksum byte are fixed, and
each summand is the checksum less the others. -/
theorem eq_get_of_validateFrame_set {f : FrameBuf} {addr : Byte} {k : Nat} {b : Byte} (hk : k < 7)
    (hf : validateFrame f addr false = .ok) (hset : validateFrame (f.set k b) addr false = .ok) : b = f.get k := by
  obtain ⟨hlead, hecho, hlen, hsum⟩ := validateFrame_ok_iff.mp hf
  match k, hk, validateFrame_ok_iff.mp hset with
  | 0, _, ⟨hlead', _⟩ => exact hlead'.trans hlead.symm
  | 2, _, ⟨_, hecho', _⟩ => exact hecho'.trans hecho.symm
  | 3, _, ⟨_, _, hlen', _⟩ => exact hlen'.trans hlen.symm
  | 6, _, ⟨_, _, _, hsum'⟩ => exact hsum'.trans hsum.symm
  | 1, _, ⟨_, _, _, hsum'⟩ | 4, _, ⟨_, _, _, hsum'⟩ | 5, _, ⟨_, _, _, hsum'⟩ =>
    simpa [FrameBuf.set, FrameBuf.get, hsum] using hsum'.symm

/-- A change that keeps the leader, the checksum byte and the sum of the others is judged by the two echoes alone. -/
theorem validateFrame_of_sum_eq {f g : FrameBuf} {addr : Byte} (hf : validateFrame f addr false = .ok) (h0 : g.b0 = f.b0)
    (h6 : g.b6 = f.b6) (hsum : g.b1 + g.b2 + g.b3 + g.b4 + g.b5 = f.b1 + f.b2 + f.b3 + f.b4 + f.b5) :
    validateFrame g addr false = if g.b2 = f.b2 ∧ g.b3 = f.b3 then .ok else .corruptResponse := by
  obtain ⟨hlead, hecho, hlen, hcks⟩ := validateFrame_ok_iff.mp hf
  have hok : validateFrame g addr false = .ok ↔ g.b2 = f.b2 ∧ g.b3 = f.b3 := by
    rw [validateFrame_ok_iff, h0, h6, hsum, hecho, hlen]
    exact ⟨fun ⟨_, h2, h3, _⟩ => ⟨h2, h3⟩, fun ⟨h2, h3⟩ => ⟨hlead, h2, h3, hecho ▸ hlen ▸ hcks⟩⟩
  split_ifs with h
  · exact hok.mpr h
  · exact validateFrame_corrupt_iff.mpr fun hg => h (hok.mp hg)

/-- Settles O38: a change of one byte by `eq_get_of_validateFrame_set`, a change that keeps the sum by `validateFrame_of_sum_eq`. -/
theorem validationDetectsOneByte : Obligations.ValidationDetectsOneByte := by
  intro f addr hf
  have hkept := fun g => validateFrame_of_sum_eq (g := g) hf
  refine ⟨fun k b hk hb => validateFrame_corrupt_iff.mpr fun hset => hb (eq_get_of_validateFrame_set hk hf hset), ?_, hkept⟩
  have hsum : f.b1 + f.b2 + f.b3 + (f.b4 + 1#8) + (f.b5 - 1#8) = f.b1 + f.b2 + f.b3 + f.b4 + f.b5 := by abel
  exact (hkept { f with b4 := f.b4 + 1#8, b5 := f.b5 - 1#8 } rfl rfl hsum).trans (if_pos ⟨rfl, rfl⟩)

/-! ### Building a request at acceptance -/

/-- A command of an idle block is its acceptance, and no frame ends in that cycle, so the servo's registers stay (42_sequencer.md R125). -/
theorem exec_idle_accepts {i : Instr} {s n : State} {accept : State → State} {ownExec : State → Progress}
    (hexec : exec i s = .next (commandCycle accept ownExec s)) (hb : s.busy = false) (hp : s.phase = .idle) (hn : accept s = n) :
    ∃ t, exec i s = .next t ∧ KeepsServoRegs s t ∧ t = endOfCycle s n := by
  refine ⟨endOfCycle s n, ?_, fun k => ?_, rfl⟩
  · rw [hexec, commandCycle_idle hb hp, hn]
  · exact congrArg (Memory.read · k) (servoNext_regs_of_not_txEnd (by simp [hp]))

theorem writeFrame_eq (addr : Byte) (value : Half) :
    writeFrame addr value = ⟨0x96#8, 0x00#8, addr, 0x02#8, lowByte value, highByte value,
      0x00#8 + addr + 0x02#8 + lowByte value + highByte value⟩ := by
  rw [writeFrame, writeRequestCks_eq]
  rfl

theorem readFrame_eq (addr : Byte) (old : FrameBuf) :
    readFrame addr old = ⟨0x96#8, 0x00#8, addr, 0x00#8, addr, old.b5, old.b6⟩ := by
  rw [readFrame, readRequestChecksumIsTheAddress]
  rfl

theorem acceptWrite_attached {s : State} (addr : Byte) (value : Half) (hatt : s.attached = true) :
    acceptWrite addr value s =
      { latchCommand .writeReg addr value s with phase := .tx, t := 0, txlen := 7#3, txbuf := writeFrame addr value } :=
  if_pos hatt

theorem acceptRead_attached {s : State} (addr : Byte) (value : Half) (hatt : s.attached = true) :
    acceptRead addr value s =
      { latchCommand .readReg addr value s with phase := .tx, t := 0, txlen := 5#3, txbuf := readFrame addr s.txbuf } :=
  if_pos hatt

/-- Settles O10: the acceptance of an attached write, with the frame of R112 (`writeFrame_eq`). -/
theorem attachedWriteIsAccepted : Obligations.AttachedWriteIsAccepted := by
  intro s addr value hb hp hatt
  refine exec_idle_accepts rfl hb hp ?_
  rw [acceptWrite_attached addr value hatt, writeFrame_eq]
  rfl

/-- Settles O11: both names of a read have the acceptance of an attached read, with the frame of R113 (`readFrame_eq`). -/
theorem attachedReadIsAccepted : Obligations.AttachedReadIsAccepted := by
  intro s i addr value hi hb hp hatt
  have hexec : exec i s = .next (commandCycle (acceptRead addr value) notAttachedStep s) := by
    rcases hi with rfl | ⟨rfl, rfl, rfl⟩
    · rfl
    · rfl
  refine exec_idle_accepts hexec hb hp ?_
  rw [acceptRead_attached addr value hatt, readFrame_eq]
  rfl

end Sys2Proof.Machine
end

section
/-!
The instruction of a cycle (42_sequencer.md R125, R126, R128; 20_memory.md R66): which one `fetch` names, idle and busy, and the one clock
cycle that a step is whichever it names (log entries 1, 10 and 11).
-/

namespace Sys2Proof.Machine

/-! ### What `fetch` names -/

theorem fetch_busy {s : State} (hb : s.busy = true) : fetch s = some (running s) := if_pos hb

theorem fetch_idle_write {s : State} (hb : s.busy = false) (hw : (currentInput s).writesCmd = true) :
    fetch s = some (decodeWord (currentInput s).busWdata) := by
  simp [fetch, hb, hw]

/-- A cycle runs no instruction exactly where an idle block's `CMD` is not written. -/
theorem fetch_eq_none_iff {s : State} : fetch s = none ↔ s.busy = false ∧ (currentInput s).writesCmd = false := by
  cases hb : s.busy with
  | true => simp [fetch_busy hb]
  | false =>
    cases hw : (currentInput s).writesCmd with
    | true => simp [fetch_idle_write hb hw]
    | false => simp [fetch, hb, hw]

/-! ### What `running` names -/

theorem running_of_request {s : State} {i : Instr} (hp : s.phase = .tx) (h : decodeRequest (txFrame s) = .ok i) :
    running s = i := by
  simp [running, hp, h]

theorem running_of_response {s : State} {i : Instr} (hp : s.phase = .pullup) (h : decodeResponse s.rxbuf.bytes = .ok i) :
    running s = i := by
  simp [running, hp, h]

/-- Where the cycle works on no frame, the running instruction is the latched command. -/
theorem running_of_no_frame {s : State}
    (h : s.phase = .exec ∨ s.phase = .presence ∨ s.phase = .settle ∨ s.phase = .rxWait ∨ s.phase = .rxBits ∨
      (s.phase = .pullup ∧ ∃ e, decodeResponse s.rxbuf.bytes = .error e)) :
    running s = decodeWord (latchedWord s) := by
  rcases h with hp | hp | hp | hp | hp | ⟨hp, e, he⟩ <;> simp [running, *]

/-- In `TX` a write's frame stands in the buffer (41_framer.md R112). -/
theorem txFrame_of_writeReg {s : State} (h : PhaseInv s) (hp : s.phase = .tx) (hop : s.op = .writeReg) :
    txFrame s = (writeFrame s.addr s.value).bytes := by
  simp only [PhaseInv, hp] at h
  obtain ⟨-, -, -, ⟨-, hlen, hbuf⟩ | ⟨hread, -⟩⟩ := h
  · rw [txFrame, hlen, hbuf]
    rfl
  · rw [hop] at hread
    cases hread

/-- In `TX` a read's frame stands in the first five bytes of the buffer (41_framer.md R113). -/
theorem txFrame_of_readReg {s : State} (h : PhaseInv s) (hp : s.phase = .tx) (hop : s.op = .readReg) :
    txFrame s = (readFrame s.addr s.txbuf).bytes.take 5 := by
  simp only [PhaseInv, hp] at h
  obtain ⟨-, -, -, ⟨hwrite, -⟩ | ⟨-, hlen, hbuf⟩⟩ := h
  · rw [hop] at hwrite
    cases hwrite
  · rw [txFrame, hlen]
    exact congrArg (fun f : FrameBuf => f.bytes.take 5) hbuf

/-- The latched command by its kind; a read of register 0 with `VALUE = 0` has the name `READ_MODEL` (log entry 9). -/
theorem decodeWord_latchedWord (s : State) :
    decodeWord (latchedWord s) =
      match s.op with
      | .illegal => .illegal (latchedWord s)
      | .attach => .attach s.addr s.value
      | .detach => .detach s.addr s.value
      | .writeReg => .writeReg s.addr s.value
      | .readReg => if s.addr == 0#8 && s.value == 0#16 then .readModel else .readReg s.addr s.value := by
  rw [latchedWord, decodeWord_commandWord]
  cases s.op <;> rfl

/-- An illegal command is latched under the reserved opcode 0, so its word is illegal again (log entry 11). -/
theorem illegalWord_latchedWord {s : State} (hop : s.op = .illegal) : illegalWord (latchedWord s) = true := by
  obtain ⟨hopcode, -, -, -⟩ := commandWord_fields s.op.code s.addr s.value
  have hzero : opField (latchedWord s) = 0x0#4 := by rw [latchedWord, hopcode, hop]; rfl
  simp [illegalWord, hzero]

/-- Settles O6: the request in `TX` by the invariant's frame, the response in `PULLUP`, and elsewhere the latched command by its kind. -/
theorem runningInstructionIsTheLatchedCommand : Obligations.RunningInstructionIsTheLatchedCommand := by
  intro s hinv hb
  obtain ⟨-, -, -, -, hphase⟩ := hinv
  rw [fetch_busy hb]
  refine ⟨fun hp hop => ?_, fun hp hop => ?_, fun hp i hi => congrArg some (running_of_response hp hi), fun hp => ?_⟩
  · rw [← writeRequestCks_eq]
    refine congrArg some (running_of_request hp ?_)
    rw [txFrame_of_writeReg hphase hp hop, decodeRequest_writeFrame]
  · refine congrArg some (running_of_request hp ?_)
    rw [txFrame_of_readReg hphase hp hop, decodeRequest_readFrame, readRequestChecksumIsTheAddress]
  · rw [running_of_no_frame hp, decodeWord_latchedWord]
    refine ⟨fun hop => by rw [hop], fun hop => by rw [hop], fun hop => by rw [hop], fun hop haddr hvalue => ?_,
      fun hop hother => ?_, fun hop => ⟨_, illegalWord_latchedWord hop, by rw [hop]⟩⟩
    · simp [hop, haddr, hvalue]
    · have hname : (s.addr == 0#8 && s.value == 0#16) = false := by
        rcases hother with h | h <;> simp [h]
      simp [hop, hname]

/-! ### The step -/

/-- Settles O7: the reset cycle or the clock cycle, by `rst`. -/
theorem stepIsTheCycleStep : Obligations.StepIsTheCycleStep := by
  intro s hs
  split_ifs with hrst
  · exact step_of_rst hs.1 hrst
  · exact step_of_no_rst hs (by simpa using hrst)

/-- Without a command the bus reaches the status bits alone (42_sequencer.md R128). -/
theorem busWrite_goOn_of_no_command {s : State} (hw : (currentInput s).writesCmd = false) :
    busWrite s (goOn s) = { s with done := keptDone s, ovr := busyOvr s } := by
  unfold keptDone busyOvr
  rcases busWrite_cases s (goOn s) with ⟨hcmd, -⟩ | ⟨hcmd, -⟩ | ⟨-, hstatus, e⟩ | ⟨-, hstatus, e⟩
  · rw [hw] at hcmd; cases hcmd
  · rw [hw] at hcmd; cases hcmd
  · rw [e]; simp [hw, hstatus, writeStatus]
  · rw [e]; simp [hw, hstatus]

/-- A cycle that runs no instruction leaves an idle block as it is, but for the status bits the host clears. -/
theorem cycleStep_of_no_command {s : State} (hp : s.phase = .idle) (hw : (currentInput s).writesCmd = false) :
    cycleStep s = wentOn s s := by
  have hstep : phaseStep s = goOn s := by simp only [phaseStep, hp]
  rw [cycleStep, hstep, busWrite_goOn_of_no_command hw, wentOn]

/-- An idle or an executing block sends no frame, so no servo register changes. -/
theorem keepsServoRegs_of_not_tx {s n : State} (hp : s.phase ≠ .tx) : KeepsServoRegs s (endOfCycle s n) := fun k =>
  congrArg (Memory.read · k) (servoNext_regs_of_not_txEnd fun hend => hp hend.1)

/-- Settles O5: the step follows `fetch`, whose three outcomes are told apart by `BUSY` and the write to `CMD`. -/
theorem stepRunsTheFetchedInstruction : Obligations.StepRunsTheFetchedInstruction := by
  intro s hs hrst
  refine ⟨fun i hf => step_of_fetch_some hs hrst hf, fetch_idle_write, fetch_busy,
    fun hb hw => fetch_eq_none_iff.mpr ⟨hb, hw⟩, step_of_fetch_none hs hrst, fun hf hp => ?_⟩
  obtain ⟨-, hw⟩ := fetch_eq_none_iff.mp hf
  exact ⟨_, step_of_fetch_none hs hrst hf, keepsServoRegs_of_not_tx (by simp [hp]), cycleStep_of_no_command hp hw⟩

/-- Settles O32: the overrun is all that its bus write adds to the cycle with no access. -/
theorem overrunOnlySetsOvr : Obligations.OverrunOnlySetsOvr := by
  intro s w env rest hs hb
  have hidle := step_of_no_rst (s := s.withInputs (idleInput env :: rest)) hs rfl
  have hwrite := step_of_no_rst (s := s.withInputs (writeInput 0#2 w env :: rest)) hs rfl
  rw [cycleStep_access (show (writeInput 0#2 w env).env = (idleInput env).env from rfl), busWrite_withInputs, if_pos hb]
    at hwrite
  exact ⟨_, hidle, hwrite⟩

end Sys2Proof.Machine
end

section
/-!
Commands in `EXEC` (42_sequencer.md R125 to R136, R139): an idle block accepts one by latching it, and its one cycle in `EXEC` completes it.
-/

namespace Sys2Proof.Machine

/-! ### Acceptance into `EXEC` -/

/-- Settles O9: each of the three is accepted by `acceptExec`. -/
theorem execCommandsAreAccepted : Obligations.ExecCommandsAreAccepted := by
  intro s addr value w hb hp
  exact ⟨exec_idle_accepts rfl hb hp rfl, exec_idle_accepts rfl hb hp rfl, exec_idle_accepts rfl hb hp rfl⟩

theorem acceptWrite_detached {s : State} (addr : Byte) (value : Half) (hatt : s.attached = false) :
    acceptWrite addr value s = acceptExec .writeReg addr value s := by
  simp [acceptWrite, hatt]

theorem acceptRead_detached {s : State} (addr : Byte) (value : Half) (hatt : s.attached = false) :
    acceptRead addr value s = acceptExec .readReg addr value s := by
  simp [acceptRead, hatt]

/-- Settles O12: detached, a write and both names of a read are accepted by `acceptExec`. -/
theorem detachedReadOrWriteIsAccepted : Obligations.DetachedReadOrWriteIsAccepted := by
  intro s addr value hb hp hatt
  exact ⟨exec_idle_accepts rfl hb hp (acceptWrite_detached addr value hatt),
    exec_idle_accepts rfl hb hp (acceptRead_detached addr value hatt),
    exec_idle_accepts rfl hb hp (acceptRead_detached 0x00#8 0x0000#16 hatt)⟩

/-! ### The cycle in `EXEC` -/

/-- A command whose own step completes it, and which is no good read, ends in its cycle of `EXEC` with `RDATA` and the servo's registers kept
(42_sequencer.md R129, R139). -/
theorem exec_completes {i : Instr} {s n : State} {accept : State → State} {ownExec : State → Progress} {code : ResultCode}
    (hexec : exec i s = .next (commandCycle accept ownExec s)) (hb : s.busy = true) (hp : s.phase = .exec)
    (hown : ownExec s = complete code n) (hovr : n.ovr = s.ovr) (hread : ¬(n.op = .readReg ∧ code = .ok)) :
    ∃ t, exec i s = .next t ∧ KeepsServoRegs s t ∧ t.err = code.code ∧ t = completedWith code s n := by
  have hcycle : commandCycle accept ownExec s = completedWith code s n := by
    rw [commandCycle_exec hb hp, hown, endOfCycle_busWrite_complete code hb hovr, if_neg hread]
  exact ⟨_, hexec.trans (congrArg _ hcycle), keepsServoRegs_of_not_tx (by simp [hp]), rfl, rfl⟩

/-- Settles O14: `attachStep` completes with `OK`, and its latched command is no read. -/
theorem attachExecutes : Obligations.AttachExecutes := by
  intro s addr value hb hp hop
  obtain ⟨t, hexec, hregs, -, ht⟩ := exec_completes (i := .attach addr value) (ownExec := attachStep)
    rfl hb hp rfl rfl (by simp [hop])
  exact ⟨t, hexec, hregs, ht⟩

/-- Settles O15: `detachStep` completes with `OK`, and its latched command is no read. -/
theorem detachExecutes : Obligations.DetachExecutes := by
  intro s addr value hb hp hop
  obtain ⟨t, hexec, hregs, -, ht⟩ := exec_completes (i := .detach addr value) (ownExec := detachStep)
    rfl hb hp rfl rfl (by simp [hop])
  exact ⟨t, hexec, hregs, ht⟩

/-- Settles O16: `illegalStep` completes with `IllegalCommand`. -/
theorem illegalCommandExecutes : Obligations.IllegalCommandExecutes := by
  intro s w hb hp _
  exact exec_completes (ownExec := illegalStep) rfl hb hp rfl rfl (by simp)

/-- Settles O17: a write and both names of a read have `notAttachedStep` as their step, which completes with `NotAttached`. -/
theorem notAttachedExecutes : Obligations.NotAttachedExecutes := by
  intro s i hb hp hi
  have hexec : ∃ accept, exec i s = .next (commandCycle accept notAttachedStep s) := by
    rcases hi with ⟨⟨addr, value, rfl⟩, -⟩ | ⟨rfl | ⟨addr, value, rfl⟩, -⟩
    · exact ⟨_, rfl⟩
    · exact ⟨_, rfl⟩
    · exact ⟨_, rfl⟩
  obtain ⟨accept, hexec⟩ := hexec
  exact exec_completes hexec hb hp rfl rfl (by simp)

end Sys2Proof.Machine
end
